-- ==== Sys2Proof/Word.lean ====
section
/-!
DEFINITION. The widths of the block's values (`00_scope.md` R10, R11): every value is an unsigned
bit vector of a fixed width; lengths and indices are natural numbers that never wrap.
-/

namespace Sys2Proof

/-- A byte, the document's u8 (R11). -/
abbrev Byte := BitVec 8

/-- A u16: a command word (R80), an Adler sum (R32, R33), a stored-block length (R90). -/
abbrev Half := BitVec 16

/-- A u32: CRC, ARG0, ARG1, RES, STATUS (R20). -/
abbrev Word := BitVec 32

end Sys2Proof
end

