-- ==== Sys2Proof/Syntax.lean ====
section
/-!
DEFINITION. The fifteen commands of `30_encoding.md` R83, one constructor per row of the opcode
table. Operands other than the immediate (the input, ARG0, ARG1) are state, not syntax (R82).
-/

namespace Sys2Proof

/-- A command: the block's unit of execution (R83). Format B commands carry their byte, the format F
command its final-block flag, format N commands nothing (R81). -/
inductive Instr where
  /-- CRC_INIT, R124. -/
  | crcInit
  /-- CRC_BYTE b, R125. -/
  | crcByte (b : Byte)
  /-- CRC_UPD, R126. -/
  | crcUpd
  /-- CRC_READ, R127. -/
  | crcRead
  /-- CRC32, R128. -/
  | crc32
  /-- ADL_INIT, R144. -/
  | adlInit
  /-- ADL_BYTE b, R145. -/
  | adlByte (b : Byte)
  /-- ADL_UPD, R146. -/
  | adlUpd
  /-- ADL_READ, R147. -/
  | adlRead
  /-- ADLER32, R148. -/
  | adler32
  /-- DFL_BLOCK f, R164. -/
  | dflBlock (f : Bool)
  /-- DFL_ENCODE, R165. -/
  | dflEncode
  /-- ZLIB_WRAP, R182. -/
  | zlibWrap
  /-- PNG_CHUNK, R192. -/
  | pngChunk
  /-- PNG_ENCODE, R206. -/
  | pngEncode
  deriving DecidableEq, Repr

end Sys2Proof
end

