-- ==== Sys2Proof/WellFormed.lean ====
section
/-!
DEFINITION. Which immediates a format admits (`30_encoding.md` R81), and with it which commands are
well formed. The operand types of `Instr` already hold every command to its format (a byte, a single
flag bit), so a term of `Instr` is well formed by its type; the check itself bites on a format and a
raw `imm8`. What a host move must meet to be admitted is in Machine/HostMoves.lean.
-/

namespace Sys2Proof

/-- The three formats of R81, which say how `imm8` is used. -/
inductive Format where
  /-- N: no immediate; `imm8` must be 0. -/
  | none
  /-- B: `imm8` is a data byte. -/
  | byte
  /-- F: bit 0 is the final-block flag, bits 7:1 must be 0. -/
  | flag
  deriving DecidableEq, Repr

/-- R81: may a word of this format carry this `imm8`? -/
def Format.admits : Format → Byte → Bool
  | .none, imm => imm == 0
  | .byte, _ => true
  | .flag, imm => imm &&& 0xFE == 0

/-- The format of each command (R81, R83). -/
def Instr.format : Instr → Format
  | .crcByte _ | .adlByte _ => .byte
  | .dflBlock _ => .flag
  | .crcInit | .crcUpd | .crcRead | .crc32 | .adlInit | .adlUpd | .adlRead | .adler32
  | .dflEncode | .zlibWrap | .pngChunk | .pngEncode => .none

/-- The immediate a command is spelled with: 0 for format N (R86). -/
def Instr.imm8 : Instr → Byte
  | .crcByte b | .adlByte b => b
  | .dflBlock f => if f then 1 else 0
  | .crcInit | .crcUpd | .crcRead | .crc32 | .adlInit | .adlUpd | .adlRead | .adler32
  | .dflEncode | .zlibWrap | .pngChunk | .pngEncode => 0

/-- A command is well formed when its format admits its immediate. -/
def Instr.wellFormed (i : Instr) : Bool := i.format.admits i.imm8

end Sys2Proof
end

