-- ==== Sys2Proof/Decode.lean ====
section
/-!
DEFINITION. The command word (`30_encoding.md` Part A): fields (R80), the opcode map (R83), the total
decoder that rejects by name (R84, R85), the encoder (R86), and the pseudo-instructions (R87).
-/

namespace Sys2Proof

/-- R80: `op = w[15:8]`. -/
def opField (w : Half) : Byte := w.extractLsb' 8 8

/-- R80: `imm8 = w[7:0]`. -/
def immField (w : Half) : Byte := w.extractLsb' 0 8

/-- Why a word is illegal (R84, R225). Each of these raises IllegalCommand. -/
inductive DecodeError where
  /-- `op` is not one of the fifteen codes. -/
  | undefinedOpcode (op : Byte)
  /-- A format N word with `imm8` other than 0. -/
  | immediateNotZero (imm : Byte)
  /-- A format F word with one of bits 7:1 set. -/
  | reservedBitsSet (imm : Byte)
  deriving DecidableEq, Repr

/-- Format N (R81): the command itself when `imm8` is 0. -/
def decodeNone (imm : Byte) (i : Instr) : Except DecodeError Instr :=
  if imm = 0 then .ok i else .error (.immediateNotZero imm)

/-- Format F (R81, R82 (b)): the flag is bit 0, and bits 7:1 must be 0. -/
def decodeFlag (imm : Byte) (mk : Bool → Instr) : Except DecodeError Instr :=
  if imm.extractLsb' 1 7 = 0 then .ok (mk (imm.getLsbD 0)) else .error (.reservedBitsSet imm)

/-- R84: take `op`; an undefined code is illegal; otherwise apply the format check of R81. -/
def decode (w : Half) : Except DecodeError Instr :=
  let imm := immField w
  match (opField w).toNat with
  | 0x10 => decodeNone imm .crcInit
  | 0x11 => .ok (.crcByte imm)
  | 0x12 => decodeNone imm .crcUpd
  | 0x13 => decodeNone imm .crcRead
  | 0x14 => decodeNone imm .crc32
  | 0x20 => decodeNone imm .adlInit
  | 0x21 => .ok (.adlByte imm)
  | 0x22 => decodeNone imm .adlUpd
  | 0x23 => decodeNone imm .adlRead
  | 0x24 => decodeNone imm .adler32
  | 0x30 => decodeFlag imm .dflBlock
  | 0x31 => decodeNone imm .dflEncode
  | 0x40 => decodeNone imm .zlibWrap
  | 0x50 => decodeNone imm .pngChunk
  | 0x60 => decodeNone imm .pngEncode
  | _ => .error (.undefinedOpcode (opField w))

/-- R83: the operation code of each command. -/
def opcode : Instr → Byte
  | .crcInit => 0x10
  | .crcByte _ => 0x11
  | .crcUpd => 0x12
  | .crcRead => 0x13
  | .crc32 => 0x14
  | .adlInit => 0x20
  | .adlByte _ => 0x21
  | .adlUpd => 0x22
  | .adlRead => 0x23
  | .adler32 => 0x24
  | .dflBlock _ => 0x30
  | .dflEncode => 0x31
  | .zlibWrap => 0x40
  | .pngChunk => 0x50
  | .pngEncode => 0x60

/-- R86: the word of a command, `(op << 8) | imm8` with `imm8 = 0` for format N. -/
def encode (i : Instr) : Half :=
  (opcode i).setWidth 16 <<< 8 ||| i.imm8.setWidth 16

/-- One row of the opcode map of R83. -/
structure OpcodeRow where
  mnemonic : String
  format : Format
  pattern : Half
  mask : Half
  deriving DecidableEq, Repr

/-- R83: "A word w selects a row when `(w & mask) = match`." -/
def OpcodeRow.selects (r : OpcodeRow) (w : Half) : Bool := w &&& r.mask == r.pattern

/-- The opcode map of R83, row by row. -/
def opcodeTable : List OpcodeRow :=
  [ ⟨"CRC_INIT", .none, 0x1000, 0xFFFF⟩, ⟨"CRC_BYTE", .byte, 0x1100, 0xFF00⟩,
    ⟨"CRC_UPD", .none, 0x1200, 0xFFFF⟩, ⟨"CRC_READ", .none, 0x1300, 0xFFFF⟩,
    ⟨"CRC32", .none, 0x1400, 0xFFFF⟩, ⟨"ADL_INIT", .none, 0x2000, 0xFFFF⟩,
    ⟨"ADL_BYTE", .byte, 0x2100, 0xFF00⟩, ⟨"ADL_UPD", .none, 0x2200, 0xFFFF⟩,
    ⟨"ADL_READ", .none, 0x2300, 0xFFFF⟩, ⟨"ADLER32", .none, 0x2400, 0xFFFF⟩,
    ⟨"DFL_BLOCK", .flag, 0x3000, 0xFFFE⟩, ⟨"DFL_ENCODE", .none, 0x3100, 0xFFFF⟩,
    ⟨"ZLIB_WRAP", .none, 0x4000, 0xFFFF⟩, ⟨"PNG_CHUNK", .none, 0x5000, 0xFFFF⟩,
    ⟨"PNG_ENCODE", .none, 0x6000, 0xFFFF⟩ ]

/-- The mnemonic of each command (R83, R86). -/
def Instr.mnemonic : Instr → String
  | .crcInit => "CRC_INIT"
  | .crcByte _ => "CRC_BYTE"
  | .crcUpd => "CRC_UPD"
  | .crcRead => "CRC_READ"
  | .crc32 => "CRC32"
  | .adlInit => "ADL_INIT"
  | .adlByte _ => "ADL_BYTE"
  | .adlUpd => "ADL_UPD"
  | .adlRead => "ADL_READ"
  | .adler32 => "ADLER32"
  | .dflBlock _ => "DFL_BLOCK"
  | .dflEncode => "DFL_ENCODE"
  | .zlibWrap => "ZLIB_WRAP"
  | .pngChunk => "PNG_CHUNK"
  | .pngEncode => "PNG_ENCODE"

/-- R87: `CRC_STR` expands to one `CRC_BYTE` per byte, in order; nothing for the empty string. -/
def pseudoCrcStr (s : List Byte) : List Instr := s.map .crcByte

/-- R87: `ADL_STR` expands to one `ADL_BYTE` per byte, in order. -/
def pseudoAdlStr (s : List Byte) : List Instr := s.map .adlByte

/-- R87: `DFL_FINAL` is `DFL_BLOCK 1`, word 0x3001. -/
def pseudoDflFinal : Instr := .dflBlock true

/-- R87: `DFL_MORE` is `DFL_BLOCK 0`, word 0x3000. -/
def pseudoDflMore : Instr := .dflBlock false

/-- The host's question: what the decoder reads from a command whose bits are `w`, `nbits` of them
given and every higher bit 0. A command is one word of exactly 16 bits (R80), so a longer number is
no command word (R22; log entry 9). -/
def decodeTableWord (nbits w : Nat) : Option Instr :=
  let v := w % 2 ^ nbits
  if v < 2 ^ 16 then
    match decode (BitVec.ofNat 16 v) with
    | .ok i => some i
    | .error _ => none
  else none

end Sys2Proof
end

