-- ==== Sys2Proof/Config.lean ====
section
/-!
DEFINITION. The identity of the hardware (`00_scope.md` R1), and the parameters the spec leaves open (`00_scope.md` R7, `92_eei_decisions.md` D2): the two
capacities, natural numbers of any size. The constants of R6 stand beside the functions that use
them, in the family files of Machine/.
-/

namespace Sys2Proof

/-- R1: the identity a model records. -/
structure Identity where
  /-- The name of the block. -/
  name : String
  /-- The one source document, as the spec names it. -/
  sourceDocument : String
  /-- The revision printed in the document, if one is. -/
  printedRevision : Option String
  /-- What the commissioning note calls the document's revision. -/
  notedRevision : String
  /-- The document's issuer. -/
  issuer : String
  deriving DecidableEq, Repr

/-- R1: no revision is printed in the document and the issuer is blank; there is no ISA name, part
number, vendor or silicon revision to record. -/
def identity : Identity where
  name := "CRC-32 reflected generator (OSGConnect/tutorial-swift)"
  sourceDocument := "the source"
  printedRevision := none
  notedRevision := "v7"
  issuer := ""

/-- The parameters of a run (R7, R36). No move changes them. -/
structure Config where
  /-- IBUF_CAP: the largest number of bytes IBUF holds. -/
  ibufCap : Nat
  /-- OBUF_CAP: the largest number of bytes OBUF holds. -/
  obufCap : Nat
  deriving DecidableEq, Repr

/-- DESIGN CHOICE, unsafe (log entry 2): the capacities `State.reset` carries, the largest counts a
32-bit length register holds. R7 fixes no figure; statements quantify over every capacity. -/
def Config.standard : Config := { ibufCap := 2 ^ 32 - 1, obufCap := 2 ^ 32 - 1 }

end Sys2Proof
end

