-- ==== Sys2Proof/Machine/State.lean ====
section
/-!
DEFINITION. What the machine holds (`10_state.md` R20) and what it holds after reset (R37), what a run
has beside it (R23, R36), the moves a host can make (`20_memory.md` R51), and the two ways a step ends without a next state. The block's own
faults (`60_exceptions.md` R221) are next states and are in Flags.lean and Ops.lean.
-/

namespace Sys2Proof.Machine

/-- A byte buffer: the bytes that hold a value, as (index, byte) pairs with indices strictly rising.
An index that is not listed holds no value (R29), so no listed pair can equal it. -/
abbrev Memory := List Host.Cell

/-- What an unlisted index reads as: no value (R29, V4; log entry 4). -/
def Memory.unlisted : Option Byte := none

/-- The canonical form: indices strictly rising. -/
abbrev Memory.wf (m : Memory) : Prop := (m.map Prod.fst).Pairwise (· < ·)

/-- The six moves of the host (R51). Values are natural numbers, so that one too wide for its register
can be written down and turned away. -/
inductive HostMove where
  /-- `HostLoad(s)`, R52. -/
  | load (s : List Byte)
  /-- `HostReadOut()`, R53. -/
  | readOut
  /-- `HostWriteReg(n, v)`: ARG0, ARG1, or CMD, which issues a command (R22). -/
  | writeReg (n v : Nat)
  /-- `HostReadReg(n)`. -/
  | readReg (n : Nat)
  /-- `HostReset()`, R260. -/
  | reset
  /-- The host does not move. -/
  | noMove
  deriving DecidableEq, Repr

/-- What a host read returned (R51, R53). -/
inductive HostReply where
  /-- `HostReadReg(n)` returned `v`. -/
  | reg (n v : Nat)
  /-- `HostReadOut()` returned these bytes. -/
  | out (bytes : List Byte)
  deriving DecidableEq, Repr

/-- The whole architectural state of the block: exactly the eleven items of R20. Nothing else is state:
counters, partial sums and other values inside a command are gone when its one step ends (R14, R35). -/
structure Block where
  /-- CRC: the CRC-32 running state, before the final exclusive-or (R31). -/
  crc : Word
  /-- S1: the first Adler-32 running sum (R32). -/
  s1 : Half
  /-- S2: the second Adler-32 running sum (R33). -/
  s2 : Half
  /-- ARG0: chunk type, or width (R24). -/
  arg0 : Word
  /-- ARG1: height (R25). -/
  arg1 : Word
  /-- RES: the last checksum read out (R26). -/
  res : Word
  /-- STATUS: CODE in bits 3:0 (R30). -/
  status : Word
  /-- ILEN: the number of valid bytes in IBUF (R27). -/
  ilen : Nat
  /-- OLEN: the number of valid bytes in OBUF (R28). -/
  olen : Nat
  /-- IBUF: the input bytes (R29). -/
  ibuf : Memory
  /-- OBUF: the output bytes (R29). -/
  obuf : Memory
  deriving DecidableEq, Repr

/-- What a run has beside the block's state (R36): its parameters, and what the host has read so far. -/
structure Run where
  /-- IBUF_CAP and OBUF_CAP (R7; log entry 2). -/
  cfg : Config
  /-- The host moves still to come, the program of R23 (log entry 1). -/
  pending : List HostMove
  /-- What host reads returned, newest first (log entry 3). -/
  replies : List HostReply
  deriving DecidableEq, Repr

/-- What a step of the package's interface goes from and to: the block's state (R20) and, beside it, the
run it is in (R23, R36), which the interface has no other place for (log entry 1). -/
structure State extends Block, Run
  deriving DecidableEq, Repr

/-- R37: the block after reset. -/
def Block.reset : Block where
  crc := 0xFFFFFFFF
  s1 := 1
  s2 := 0
  arg0 := 0
  arg1 := 0
  res := 0
  status := 0
  ilen := 0
  olen := 0
  ibuf := []
  obuf := []

/-- The block after reset (R37, R260) in a configuration, with no host move to come. -/
def State.resetFor (cfg : Config) : State :=
  { toBlock := Block.reset, toRun := { cfg := cfg, pending := [], replies := [] } }

/-- The state right after reset (R37) in the standard configuration. -/
def State.reset : State := State.resetFor Config.standard

/-- Why the model stops where the spec gives no step. -/
inductive Fault where
  /-- Raised by a command that reads IBUF, or by HostReadOut, when a byte below ILEN (OLEN) holds no
  value. Safe: R29 gives such a read no result, and no run from reset reaches such a state
  (Safety.lean, `State.Inv`). -/
  | byteWithoutValue
  deriving DecidableEq, Repr

/-- Moves the machine does not have (R13: "not admitted"), and commands not modelled. -/
inductive Refusal where
  /-- Raised by exec for a command that has no meaning yet; safe. No arm raises it. -/
  | notModelled (mnemonic : String)
  /-- `HostLoad` of more than IBUF_CAP bytes (R52). Safe: the spec gives no such step. -/
  | loadTooLong
  /-- A host access to register number 7 or above (R21). Safe: the spec gives no such step. -/
  | noSuchRegister
  /-- A host read of CMD (R21, R51). Safe: the spec gives no such step. -/
  | notReadable
  /-- A host write of STATUS, RES, ILEN or OLEN (R21, R51). Safe: the spec gives no such step. -/
  | notWritable
  /-- A value wider than the register it is written to (R22, R24, R51). Safe: no such step. -/
  | valueTooWide
  deriving DecidableEq, Repr

/-- What a command, a host move or a step answers. -/
abbrev Result := Host.Outcome State Fault Refusal

end Sys2Proof.Machine
end

