-- ==== Sys2Proof/Machine/Flags.lean ====
section
/-!
DEFINITION. The status register (`10_state.md` R30) and the fault codes (`60_exceptions.md` R221). The
block has no flags, condition codes or predicates (R34): STATUS.CODE is all there is.
-/

namespace Sys2Proof.Machine

/-- The faults the block raises (R221). IOError, code 3, is never raised (R226). -/
inductive FaultCode where
  /-- R222. -/
  | inputSizeMismatch
  /-- R223. -/
  | blockTooLarge
  /-- R225. -/
  | illegalCommand
  /-- R227. -/
  | chunkTooLong
  /-- R228. -/
  | outputOverflow
  deriving DecidableEq, Repr

/-- R221: the number recorded in STATUS.CODE. -/
def FaultCode.code : FaultCode → BitVec 4
  | .inputSizeMismatch => 1
  | .blockTooLarge => 2
  | .illegalCommand => 4
  | .chunkTooLong => 5
  | .outputOverflow => 6

/-- STATUS.CODE, bits 3:0 (R30). -/
def State.code (s : State) : BitVec 4 := s.status.extractLsb' 0 4

/-- What a host read of STATUS gives: bits 31:4 read as zero (R30; log entry 5). -/
def State.statusValue (s : State) : Word := s.code.setWidth 32

/-- R30: the block is halted when CODE is not 0. -/
def State.halted (s : State) : Bool := s.code != 0

end Sys2Proof.Machine
end

