-- ==== Sys2Proof/Machine/Ops.lean ====
section
/-!
DEFINITION. The operations every command and host move shares: byte order (`00_scope.md` R11), reading
and replacing a buffer (`20_memory.md` R52 to R54, R59), the register writes, `Commit` (R12), taking a
fault (`60_exceptions.md` R230) and the reset that is the only return from one (R231, R260), and the
command template's halt check and checks (`40_crc32.md` R120).
-/

namespace Sys2Proof.Machine

/-- R11: the four bytes of a u32, most significant first. -/
def be32 (v : Word) : List Byte :=
  [v.extractLsb' 24 8, v.extractLsb' 16 8, v.extractLsb' 8 8, v.extractLsb' 0 8]

/-- R11: the two bytes of a u16, least significant first. -/
def le16 (v : Half) : List Byte := [v.extractLsb' 0 8, v.extractLsb' 8 8]

/-- `MemRead(i, 1)` (R12, R59): the byte at an index, or no value. -/
def Memory.read : Memory → Nat → Option Byte
  | [], _ => Memory.unlisted
  | (a, b) :: m, i => if a = i then some b else Memory.read m i

/-- The `n` bytes from index `i` upward (`buf[i..i+n)` of R11), or nothing if one holds no value. -/
def Memory.readSeq : Memory → Nat → Nat → Option (List Byte)
  | _, _, 0 => some []
  | [], _, _ + 1 => none
  | (a, b) :: m, i, n + 1 =>
    if a = i then (Memory.readSeq m (i + 1) n).map (b :: ·)
    else if a < i then Memory.readSeq m i (n + 1)
    else none

/-- The buffer that holds a byte sequence from index `i` upward and nothing else. -/
def Memory.ofBytesFrom : Nat → List Byte → Memory
  | _, [] => []
  | i, b :: bs => (i, b) :: Memory.ofBytesFrom (i + 1) bs

/-- The buffer that holds exactly a byte sequence, from index 0. -/
def Memory.ofBytes (bs : List Byte) : Memory := Memory.ofBytesFrom 0 bs

/-- R29: the input byte sequence `in = IBUF[0..ILEN)`. -/
def State.input (s : State) : Option (List Byte) := s.ibuf.readSeq 0 s.ilen

/-- R29, R53: the output byte sequence `OBUF[0..OLEN)`. -/
def State.output (s : State) : Option (List Byte) := s.obuf.readSeq 0 s.olen

/-- R50: the byte an index of the input space holds; only 0 to ILEN - 1 are addressable. -/
def State.inputByte (s : State) (i : Nat) : Option Byte :=
  if i < s.ilen then s.ibuf.read i else Memory.unlisted

/-- R50: the byte an index of the output space holds; only 0 to OLEN - 1 are addressable. -/
def State.outputByte (s : State) (i : Nat) : Option Byte :=
  if i < s.olen then s.obuf.read i else Memory.unlisted

/-- `CRC <- v`. -/
def State.setCrc (s : State) (v : Word) : State := { s with crc := v }

/-- `(S1, S2) <- v`: the sums are always written together (R33). -/
def State.setSums (s : State) (v : Half × Half) : State := { s with s1 := v.1, s2 := v.2 }

/-- `RES <- v`. -/
def State.setRes (s : State) (v : Word) : State := { s with res := v }

/-- `ARG0 <- v`. -/
def State.setArg0 (s : State) (v : Word) : State := { s with arg0 := v }

/-- `ARG1 <- v`. -/
def State.setArg1 (s : State) (v : Word) : State := { s with arg1 := v }

/-- R52: the input replaced whole; no byte of the previous input remains valid. -/
def State.loadInput (s : State) (bs : List Byte) : State :=
  { s with ibuf := Memory.ofBytes bs, ilen := bs.length }

/-- `Commit(out)` (R12, R54): the output replaced whole, all at once. -/
def State.commit (s : State) (out : List Byte) : State :=
  { s with obuf := Memory.ofBytes out, olen := out.length }

/-- The host moves still to come, replaced: a step takes the first off the list (R23). -/
def State.setPending (s : State) (ms : List HostMove) : State := { s with pending := ms }

/-- The host reads something: the reply is recorded, the block is unchanged (R51). -/
def State.reply (s : State) (r : HostReply) : State := { s with replies := r :: s.replies }

/-- R230: taking a fault with code k: `STATUS <- zext_32(k)`; nothing else changes. -/
def State.takeFault (s : State) (f : FaultCode) : State := { s with status := f.code.setWidth 32 }

/-- R260: reset puts the eleven items at the values of R37; it is the only thing that leaves the
halted condition. The run goes on: its parameters are no state (R36). -/
def State.resetBlock (s : State) : State := { s with toBlock := Block.reset }

/-- R120 step 0, R231: a command issued while halted has no effect of any kind. -/
def unlessHalted (s : State) (k : Result) : Result := if s.halted then .next s else k

/-- R120 step 2: a check; when it fails its fault is raised and the command ends. -/
def check (bad : Bool) (f : FaultCode) (s : State) (k : Result) : Result :=
  if bad then .next (s.takeFault f) else k

/-- R228: would an output of `n` bytes exceed OBUF_CAP? -/
def State.overflows (s : State) (n : Nat) : Bool := s.cfg.obufCap < n

/-- R227: is data of `n` bytes too long for a chunk's 4-byte length field? -/
def tooLongForChunk (n : Nat) : Bool := 2 ^ 32 - 1 < n

/-- R82 (e): a command that works on `in` reads all of it. -/
def withInput (s : State) (k : List Byte → Result) : Result :=
  match s.input with
  | some data => k data
  | none => .fault .byteWithoutValue

end Sys2Proof.Machine
end

