-- ==== Sys2Proof/Machine/Operands.lean ====
section
/-!
DEFINITION. Operand assembly, every form of `30_encoding.md` R82. The byte-sequence operand (R82 (e))
is `State.input`, handed to a command by `withInput` (Ops.lean).
-/

namespace Sys2Proof.Machine

/-- R82 (a): the byte immediate where it meets a CRC state, `zext_32(b)`. -/
def byteAsWord (b : Byte) : Word := b.setWidth 32

/-- R82 (a), R142: the byte immediate where it meets an Adler sum, `zext_17(b)`; the sum is formed as a
natural number, which the 17 bits of R142 always hold. -/
def byteAsSum (b : Byte) : Nat := (b.setWidth 17).toNat

/-- R82 (b), R161: the flag immediate as the first byte of a stored block, 0x01 or 0x00. -/
def flagByte (f : Bool) : Byte := if f then 0x01 else 0x00

/-- R82 (c), R24, R191: the chunk type of PNG_CHUNK, `be32(ARG0)`. -/
def State.chunkType (s : State) : List Byte := be32 s.arg0

/-- R82 (d), R24: the width of PNG_ENCODE. -/
def State.width (s : State) : Word := s.arg0

/-- R82 (d), R25: the height of PNG_ENCODE. -/
def State.height (s : State) : Word := s.arg1

end Sys2Proof.Machine
end

