-- ==== Sys2Proof/Machine/Crc32.lean ====
section
/-!
DEFINITION. Family 1, the CRC-32 reflected generator (`40_crc32.md`): the function (R121 to R123) and
the commands CRC_INIT, CRC_BYTE, CRC_UPD, CRC_READ and CRC32 (R124 to R128).
-/

namespace Sys2Proof.Machine

/-- CRC_POLY (R6). -/
def crcPoly : Word := 0xEDB88320

/-- CRC_INIT, the initial running state (R6). -/
def crcStart : Word := 0xFFFFFFFF

/-- CRC_XOROUT (R6). -/
def crcXorOut : Word := 0xFFFFFFFF

/-- CRC_ROUNDS (R6). -/
def crcRounds : Nat := 8

/-- R121: one round; the low bit is tested before the shift. -/
def crcRound (c : Word) : Word :=
  if c.getLsbD 0 then (c >>> 1) ^^^ crcPoly else c >>> 1

/-- `n` rounds. -/
def crcIterate : Nat → Word → Word
  | 0, c => c
  | n + 1, c => crcIterate n (crcRound c)

/-- R122: one byte enters at the low end, then eight rounds. -/
def crcStep (c : Word) (b : Byte) : Word := crcIterate crcRounds (c ^^^ byteAsWord b)

/-- R129 (c): `T[i]`, eight rounds on `zext_32(i)`. -/
def crcTable (i : Byte) : Word := crcIterate crcRounds (byteAsWord i)

/-- R129 (c), R14: the table-driven form of the step, permitted because it computes the same function.
No command of the model uses it. -/
def crcStepByTable (c : Word) (b : Byte) : Word :=
  (c >>> 8) ^^^ crcTable ((c ^^^ byteAsWord b).extractLsb' 0 8)

/-- R123: a sequence, from index 0 upward. -/
def crcRun : Word → List Byte → Word
  | c, [] => c
  | c, b :: rest => crcRun (crcStep c b) rest

/-- R123, R31: the finished checksum of a running state. -/
def crcFinish (c : Word) : Word := c ^^^ crcXorOut

/-- R123: the document's contract `crc32(bytes)`. -/
def crc32 (s : List Byte) : Word := crcFinish (crcRun crcStart s)

/-- CRC_INIT (R124). -/
def execCrcInit (s : State) : Result :=
  unlessHalted s (.next (s.setCrc crcStart))

/-- CRC_BYTE b (R125): continues from whatever CRC holds. -/
def execCrcByte (b : Byte) (s : State) : Result :=
  unlessHalted s (.next (s.setCrc (crcStep s.crc b)))

/-- CRC_UPD (R126). -/
def execCrcUpd (s : State) : Result :=
  unlessHalted s <| withInput s fun data => .next (s.setCrc (crcRun s.crc data))

/-- CRC_READ (R127): the running state is not changed. -/
def execCrcRead (s : State) : Result :=
  unlessHalted s (.next (s.setRes (crcFinish s.crc)))

/-- CRC32 (R128): the previous CRC is discarded. -/
def execCrc32 (s : State) : Result :=
  unlessHalted s <| withInput s fun data =>
    let c := crcRun crcStart data
    .next ((s.setCrc c).setRes (crcFinish c))

end Sys2Proof.Machine
end

