-- ==== Sys2Proof/Machine/PngChunk.lean ====
section
/-!
DEFINITION. Family 5, the PNG chunk serializer (`44_png_chunk.md`): the function (R190) and the command
PNG_CHUNK (R192).
-/

namespace Sys2Proof.Machine

/-- R94: a chunk whose CRC field is `c`. -/
def chunkFrame (t d : List Byte) (c : Word) : List Byte :=
  be32 (BitVec.ofNat 32 d.length) ++ t ++ d ++ be32 c

/-- R190: length of the data only, type, data, CRC-32 of type and data. Meant for at most 2^32 - 1
data bytes; the commands never apply it to more (log entry 11). -/
def pngChunk (t d : List Byte) : List Byte := chunkFrame t d (crc32 (t ++ d))

/-- R99: the length of a chunk of n data bytes. -/
def chunkLength (n : Nat) : Nat := n + 12

/-- PNG_CHUNK (R192): ChunkTooLong before OutputOverflow; any 32-bit type is accepted (R191). -/
def execPngChunk (s : State) : Result :=
  unlessHalted s <|
  check (tooLongForChunk s.ilen) .chunkTooLong s <|
  check (s.overflows (chunkLength s.ilen)) .outputOverflow s <|
  withInput s fun data =>
    let c := crcRun crcStart (s.chunkType ++ data)
    .next ((s.setCrc c).commit (chunkFrame s.chunkType data (crcFinish c)))

end Sys2Proof.Machine
end

