-- ==== Sys2Proof/Machine/Adler32.lean ====
section
/-!
DEFINITION. Family 2, the Adler-32 summer (`41_adler32.md`): the function (R141 to R143) and the
commands ADL_INIT, ADL_BYTE, ADL_UPD, ADL_READ and ADLER32 (R144 to R148).
-/

namespace Sys2Proof.Machine

/-- ADLER_MOD (R6). -/
def adlerMod : Nat := 65521

/-- ADLER_S1_INIT and ADLER_S2_INIT (R6). -/
def adlerStart : Half × Half := (1, 0)

/-- R141: one byte; the second sum takes the NEW first sum. The unreduced sums are natural numbers, so
nothing wraps at 2^16 (R142). -/
def adlStep (v : Half × Half) (b : Byte) : Half × Half :=
  let n1 := (v.1.toNat + byteAsSum b) % adlerMod
  let n2 := (v.2.toNat + n1) % adlerMod
  (BitVec.ofNat 16 n1, BitVec.ofNat 16 n2)

/-- R143: a sequence, from index 0 upward. -/
def adlRun : Half × Half → List Byte → Half × Half
  | v, [] => v
  | v, b :: rest => adlRun (adlStep v b) rest

/-- R143, R147: `(s2 << 16) | s1` as 32 bits. -/
def adlFinish (v : Half × Half) : Word := v.2.setWidth 32 <<< 16 ||| v.1.setWidth 32

/-- R143: the document's contract `adler32(bytes)`. -/
def adler32 (s : List Byte) : Word := adlFinish (adlRun adlerStart s)

/-- ADL_INIT (R144). -/
def execAdlInit (s : State) : Result :=
  unlessHalted s (.next (s.setSums adlerStart))

/-- ADL_BYTE b (R145). -/
def execAdlByte (b : Byte) (s : State) : Result :=
  unlessHalted s (.next (s.setSums (adlStep (s.s1, s.s2) b)))

/-- ADL_UPD (R146). -/
def execAdlUpd (s : State) : Result :=
  unlessHalted s <| withInput s fun data => .next (s.setSums (adlRun (s.s1, s.s2) data))

/-- ADL_READ (R147): the sums are not changed. -/
def execAdlRead (s : State) : Result :=
  unlessHalted s (.next (s.setRes (adlFinish (s.s1, s.s2))))

/-- ADLER32 (R148): the previous sums are discarded. -/
def execAdler32 (s : State) : Result :=
  unlessHalted s <| withInput s fun data =>
    let v := adlRun adlerStart data
    .next ((s.setSums v).setRes (adlFinish v))

end Sys2Proof.Machine
end

