-- ==== Sys2Proof/Machine/DeflateStored.lean ====
section
/-!
DEFINITION. Family 3, the deflate stored-block framer (`42_deflate_stored.md`): the functions (R161 to
R163), the lengths (`30_encoding.md` R99) and the commands DFL_BLOCK and DFL_ENCODE (R164, R165).
-/

namespace Sys2Proof.Machine

/-- MAX_STORED (R6). -/
def maxStored : Nat := 65535

/-- R161: header byte, LEN, NLEN, then the segment. Meant for at most 65535 bytes; the commands never
apply it to more (log entry 11). -/
def storedBlock (f : Bool) (seg : List Byte) : List Byte :=
  let n := BitVec.ofNat 16 seg.length
  flagByte f :: (le16 n ++ le16 (0xFFFF ^^^ n) ++ seg)

/-- R162: the number of segments; one for the empty input, else `ceil(N / 65535)`. -/
def nseg (n : Nat) : Nat := if n = 0 then 1 else (n + (maxStored - 1)) / maxStored

/-- R162: storedSegment k, `s[65535*k .. min(65535*(k+1), N))`. -/
def storedSegment (s : List Byte) (k : Nat) : List Byte := (s.drop (maxStored * k)).take maxStored

/-- R163: the serialized blocks of all segments, in order; the flag is 1 on the last only. -/
def deflateStored (s : List Byte) : List Byte :=
  let m := nseg s.length
  (List.range m).flatMap fun k => storedBlock (k + 1 == m) (storedSegment s k)

/-- R99: the length of one stored block of an n-byte segment. -/
def storedLength (n : Nat) : Nat := 5 + n

/-- R99: the length of DFL_ENCODE's output for N bytes. -/
def deflateLength (n : Nat) : Nat := n + 5 * nseg n

/-- DFL_BLOCK f (R164): BlockTooLarge before OutputOverflow. -/
def execDflBlock (f : Bool) (s : State) : Result :=
  unlessHalted s <|
  check (maxStored < s.ilen) .blockTooLarge s <|
  check (s.overflows (storedLength s.ilen)) .outputOverflow s <|
  withInput s fun data => .next (s.commit (storedBlock f data))

/-- DFL_ENCODE (R165): the document's contract `encode(bytes)`. -/
def execDflEncode (s : State) : Result :=
  unlessHalted s <|
  check (s.overflows (deflateLength s.ilen)) .outputOverflow s <|
  withInput s fun data => .next (s.commit (deflateStored data))

end Sys2Proof.Machine
end

