-- ==== Sys2Proof/Machine/ZlibStream.lean ====
section
/-!
DEFINITION. Family 4, the zlib stream writer (`43_zlib_stream.md`): the function (R181) and the command
ZLIB_WRAP (R182).
-/

namespace Sys2Proof.Machine

/-- ZLIB_HDR (R6, R93). -/
def zlibHeader : List Byte := [0x78, 0x01]

/-- R92: the stream of a payload whose checksum is `a`. -/
def zlibFrame (s : List Byte) (a : Word) : List Byte := zlibHeader ++ deflateStored s ++ be32 a

/-- R181: the document's contract `wrap(bytes)`; the checksum is of the unframed bytes. -/
def zlibWrap (s : List Byte) : List Byte := zlibFrame s (adler32 s)

/-- R99: the length of a zlib stream of N bytes. -/
def zlibLength (n : Nat) : Nat := n + 5 * nseg n + 6

/-- ZLIB_WRAP (R182). -/
def execZlibWrap (s : State) : Result :=
  unlessHalted s <|
  check (s.overflows (zlibLength s.ilen)) .outputOverflow s <|
  withInput s fun data =>
    let v := adlRun adlerStart data
    .next ((s.setSums v).commit (zlibFrame data (adlFinish v)))

end Sys2Proof.Machine
end

