-- ==== Sys2Proof/Machine/PngImage.lean ====
section
/-!
DEFINITION. Family 6, the PNG image encoder (`45_png_image.md`): the functions (R200 to R204) and the
command PNG_ENCODE (R206). All length arithmetic is over the natural numbers (R201, D18).
-/

namespace Sys2Proof.Machine

/-- BYTES_PER_PIXEL (R6). -/
def bytesPerPixel : Nat := 3

/-- FILTER_BYTE (R6). -/
def filterByte : Byte := 0x00

/-- PNG_SIG (R6, R97). -/
def pngSignature : List Byte := [0x89, 0x50, 0x4E, 0x47, 0x0D, 0x0A, 0x1A, 0x0A]

/-- IHDR_BIT_DEPTH, IHDR_COLOR_TYPE, IHDR_COMPRESSION, IHDR_FILTER, IHDR_INTERLACE (R6). -/
def ihdrTail : List Byte := [8, 2, 0, 0, 0]

/-- "IHDR" (R98). -/
def typeIHDR : List Byte := [0x49, 0x48, 0x44, 0x52]

/-- "IDAT" (R98). -/
def typeIDAT : List Byte := [0x49, 0x44, 0x41, 0x54]

/-- "IEND" (R98). -/
def typeIEND : List Byte := [0x49, 0x45, 0x4E, 0x44]

/-- `h` rows of `rowBytes` bytes each, a filter byte before every row, in row order. -/
def filterRows (rowBytes : Nat) : Nat → List Byte → List Byte
  | 0, _ => []
  | h + 1, p => filterByte :: (p.take rowBytes ++ filterRows rowBytes h (p.drop rowBytes))

/-- R200: the filtered scanlines of a `w` by `h` image. -/
def scanlines (w h : Nat) (p : List Byte) : List Byte := filterRows (bytesPerPixel * w) h p

/-- R96: L, the length of the filtered scanlines. -/
def scanlinesLength (w h : Nat) : Nat := h * (1 + bytesPerPixel * w)

/-- R202: the 13 bytes of the IHDR chunk's data. -/
def ihdrData (w h : Word) : List Byte := be32 w ++ be32 h ++ ihdrTail

/-- R203: the IDAT chunk's data, one zlib stream of the filtered scanlines. -/
def idatData (w h : Word) (p : List Byte) : List Byte := zlibWrap (scanlines w.toNat h.toNat p)

/-- R204: the file: signature, IHDR, one IDAT, IEND. -/
def pngEncode (w h : Word) (p : List Byte) : List Byte :=
  pngSignature ++ pngChunk typeIHDR (ihdrData w h) ++ pngChunk typeIDAT (idatData w h p)
    ++ pngChunk typeIEND []

/-- R206: Z, the length of the IDAT chunk's data. -/
def idatLength (w h : Nat) : Nat := zlibLength (scanlinesLength w h)

/-- R99: the length of the file of a `w` by `h` image. -/
def pngLength (w h : Nat) : Nat :=
  63 + scanlinesLength w h + 5 * nseg (scanlinesLength w h)

/-- R222: the input's length is not `3 * width * height`, the product taken without wrap-around. -/
def State.sizeMismatch (s : State) : Bool :=
  s.ilen != bytesPerPixel * s.width.toNat * s.height.toNat

/-- PNG_ENCODE (R206): InputSizeMismatch, then ChunkTooLong, then OutputOverflow. S1 and S2 are left by
the zlib stage, CRC by the last chunk, IEND. -/
def execPngEncode (s : State) : Result :=
  unlessHalted s <|
  check s.sizeMismatch .inputSizeMismatch s <|
  check (tooLongForChunk (idatLength s.width.toNat s.height.toNat)) .chunkTooLong s <|
  check (s.overflows (pngLength s.width.toNat s.height.toNat)) .outputOverflow s <|
  withInput s fun data =>
    let sums := adlRun adlerStart (scanlines s.width.toNat s.height.toNat data)
    .next (((s.setSums sums).setCrc (crcRun crcStart typeIEND)).commit
      (pngEncode s.width s.height data))

end Sys2Proof.Machine
end

