-- ==== Sys2Proof/Machine/Dispatch.lean ====
section
/-!
DEFINITION. Dispatch: one arm per command (`30_encoding.md` R83).
-/

namespace Sys2Proof.Machine

def exec (i : Instr) (s : State) : Host.Outcome State Fault Refusal :=
  match i with
  | .crcInit => Sys2Proof.Machine.execCrcInit s
  | .crcByte b => Sys2Proof.Machine.execCrcByte b s
  | .crcUpd => Sys2Proof.Machine.execCrcUpd s
  | .crcRead => Sys2Proof.Machine.execCrcRead s
  | .crc32 => Sys2Proof.Machine.execCrc32 s
  | .adlInit => Sys2Proof.Machine.execAdlInit s
  | .adlByte b => Sys2Proof.Machine.execAdlByte b s
  | .adlUpd => Sys2Proof.Machine.execAdlUpd s
  | .adlRead => Sys2Proof.Machine.execAdlRead s
  | .adler32 => Sys2Proof.Machine.execAdler32 s
  | .dflBlock f => Sys2Proof.Machine.execDflBlock f s
  | .dflEncode => Sys2Proof.Machine.execDflEncode s
  | .zlibWrap => Sys2Proof.Machine.execZlibWrap s
  | .pngChunk => Sys2Proof.Machine.execPngChunk s
  | .pngEncode => Sys2Proof.Machine.execPngEncode s

end Sys2Proof.Machine
end

