-- ==== Sys2Proof/Machine/HostMoves.lean ====
section
/-!
DEFINITION. The host's moves (`20_memory.md` R51 to R54, `10_state.md` R21 to R25): what each does, and
when it is not admitted. Writing CMD decodes a word and runs it (R22, `40_crc32.md` R120).
-/

namespace Sys2Proof.Machine

/-- What an illegal word does (R225, R230): IllegalCommand, unless the block is halted (R85, R231). -/
def execIllegal (s : State) : Result :=
  unlessHalted s (.next (s.takeFault .illegalCommand))

/-- R22, R120: the word `w` is issued: decoded, then run; an illegal word faults at decode. -/
def issue (w : Half) (s : State) : Result :=
  match decode w with
  | .ok i => exec i s
  | .error _ => execIllegal s

/-- `HostLoad(s)` (R52): admitted up to IBUF_CAP bytes. -/
def hostLoad (bs : List Byte) (s : State) : Result :=
  if bs.length ≤ s.cfg.ibufCap then .next (s.loadInput bs) else .refused .loadTooLong

/-- `HostReadOut()` (R53): returns exactly OBUF[0..OLEN) and changes nothing. -/
def hostReadOut (s : State) : Result :=
  match s.output with
  | some bytes => .next (s.reply (.out bytes))
  | none => .fault .byteWithoutValue

/-- `HostWriteReg(n, v)` (R51, R21): 0 issues a command, 2 is ARG0, 3 is ARG1. -/
def hostWriteReg (n v : Nat) (s : State) : Result :=
  match n with
  | 0 => if v < 2 ^ 16 then issue (BitVec.ofNat 16 v) s else .refused .valueTooWide
  | 2 => if v < 2 ^ 32 then .next (s.setArg0 (BitVec.ofNat 32 v)) else .refused .valueTooWide
  | 3 => if v < 2 ^ 32 then .next (s.setArg1 (BitVec.ofNat 32 v)) else .refused .valueTooWide
  | 1 | 4 | 5 | 6 => .refused .notWritable
  | _ => .refused .noSuchRegister

/-- `HostReadReg(n)` (R51, R21): the value of register 1 to 6; nothing changes. -/
def hostReadReg (n : Nat) (s : State) : Result :=
  match n with
  | 0 => .refused .notReadable
  | 1 => .next (s.reply (.reg 1 s.statusValue.toNat))
  | 2 => .next (s.reply (.reg 2 s.arg0.toNat))
  | 3 => .next (s.reply (.reg 3 s.arg1.toNat))
  | 4 => .next (s.reply (.reg 4 s.res.toNat))
  | 5 => .next (s.reply (.reg 5 s.ilen))
  | 6 => .next (s.reply (.reg 6 s.olen))
  | _ => .refused .noSuchRegister

/-- One host move (R51). All moves work whether or not the block is halted (R231). -/
def perform (m : HostMove) (s : State) : Result :=
  match m with
  | .load bs => hostLoad bs s
  | .readOut => hostReadOut s
  | .writeReg n v => hostWriteReg n v s
  | .readReg n => hostReadReg n s
  | .reset => .next s.resetBlock
  | .noMove => .next s

/-- R23, R36: a run of a program, which is a parameter, in a configuration, which is another. What it
carries from move to move is the block's state and the record of what the host has read. -/
def runProgram (cfg : Config) :
    List HostMove → Block → List HostReply → Host.Outcome (Block × List HostReply) Fault Refusal
  | [], b, rs => .next (b, rs)
  | m :: rest, b, rs =>
    match perform m { toBlock := b, toRun := { cfg := cfg, pending := [], replies := rs } } with
    | .next t => runProgram cfg rest t.toBlock t.replies
    | .fault r => .fault r
    | .refused r => .refused r

/-- The next host move is taken off the list (R23: "a step consumes the head of the list"). With no move
left the host does not move and the block keeps all state (R244). -/
def nextMove (s : State) : Result :=
  match s.pending with
  | [] => .next s
  | m :: rest => perform m (s.setPending rest)

/-- The host's next move writes the low `nbits` bits of `w` to CMD, before the moves already to come. -/
def fetchWord (s : State) (nbits w : Nat) : State :=
  s.setPending (.writeReg 0 (w % 2 ^ nbits) :: s.pending)

end Sys2Proof.Machine
end

