-- ==== Sys2Proof/Machine/Step.lean ====
section
/-!
DEFINITION. One step: the host's next move (`20_memory.md` R51, `10_state.md` R23), which for a write of
CMD runs a command.
-/

namespace Sys2Proof.Machine

/-- One step of a run: the block takes the next host move. -/
def step (s : State) : Host.Outcome State Fault Refusal := nextMove s

/-- The state whose very next step issues the word `w` (log entry 9). -/
def State.withFetchWord (s : State) (nbits w : Nat) : State := fetchWord s nbits w

end Sys2Proof.Machine
end

