-- ==== Sys2Proof/Machine/Listing.lean ====
section
/-!
DEFINITION. The listings of `30_encoding.md` R86 and R87 as data: the lines of a program and the host
moves each stands for. The hardware knows nothing of them; only their spelling as text is left out
(log entry 8).
-/

namespace Sys2Proof.Machine

/-- One line of a listing: a command, a pseudo-instruction (R87), or a host-move directive (R86). -/
inductive ListingLine where
  | command (i : Instr)
  | crcStr (s : List Byte)
  | adlStr (s : List Byte)
  | dflFinal
  | dflMore
  /-- `.load <bytes>`. -/
  | load (s : List Byte)
  /-- `.arg0 <value>`. -/
  | arg0 (v : Nat)
  /-- `.arg1 <value>`. -/
  | arg1 (v : Nat)
  /-- `.reset`. -/
  | reset
  /-- `.expect <register> = <value>`. -/
  | expectReg (n v : Nat)
  /-- `.expect out = <bytes>`. -/
  | expectOut (s : List Byte)
  deriving DecidableEq, Repr

/-- R22, R86: a command line is a write of its word to CMD. -/
def commandMove (i : Instr) : HostMove := .writeReg 0 (encode i).toNat

/-- R86, R87: the host moves of a line. -/
def ListingLine.moves : ListingLine → List HostMove
  | .command i => [commandMove i]
  | .crcStr s => (pseudoCrcStr s).map commandMove
  | .adlStr s => (pseudoAdlStr s).map commandMove
  | .dflFinal => [commandMove pseudoDflFinal]
  | .dflMore => [commandMove pseudoDflMore]
  | .load s => [.load s]
  | .arg0 v => [.writeReg 2 v]
  | .arg1 v => [.writeReg 3 v]
  | .reset => [.reset]
  | .expectReg n _ => [.readReg n]
  | .expectOut _ => [.readOut]

/-- The reply a line expects of its read (R86), where it is an `.expect`. -/
def ListingLine.expected : ListingLine → Option HostReply
  | .expectReg n v => some (.reg n v)
  | .expectOut s => some (.out s)
  | .command _ | .crcStr _ | .adlStr _ | .dflFinal | .dflMore | .load _ | .arg0 _ | .arg1 _
  | .reset => none

/-- The host moves of a whole listing, in order. -/
def listingMoves (ls : List ListingLine) : List HostMove := ls.flatMap ListingLine.moves

end Sys2Proof.Machine
end

