-- ==== Sys2Proof/Safety.lean ====
section
/-!
DEFINITION. The terms claims use: the invariant of `10_state.md` R39, what a halted block keeps
(`60_exceptions.md` R231), and a reader's own parsers of the output formats (`42_deflate_stored.md`
R166 (e), `45_png_image.md` R207): the block has no decoder, so a round-trip claim is stated against
these.
-/

namespace Sys2Proof.Machine

/-- A buffer of which exactly the first `n` bytes hold a value (R29). -/
abbrev Memory.Covers (m : Memory) (n : Nat) : Prop := m.map Prod.fst = List.range n

/-- R32, R33: both Adler sums are reduced. -/
abbrev State.SumsReduced (s : State) : Prop := s.s1.toNat < 65521 ∧ s.s2.toNat < 65521

/-- R27, R28: the lengths are within the capacities. -/
abbrev State.LengthsFit (s : State) : Prop := s.ilen ≤ s.cfg.ibufCap ∧ s.olen ≤ s.cfg.obufCap

/-- R30, R221: bits 31:4 of STATUS are zero and CODE is a legal value. -/
abbrev State.StatusLegal (s : State) : Prop :=
  s.status.extractLsb' 4 28 = 0 ∧ s.code ∈ ([0, 1, 2, 4, 5, 6] : List (BitVec 4))

/-- R29: the valid bytes of each buffer are those below its length register. -/
abbrev State.BuffersValid (s : State) : Prop := s.ibuf.Covers s.ilen ∧ s.obuf.Covers s.olen

/-- R39: what holds in every reachable state. -/
abbrev State.Inv (s : State) : Prop :=
  s.SumsReduced ∧ s.LengthsFit ∧ s.StatusLegal ∧ s.BuffersValid

/-- R39, R231: the items that do not change while the block is halted: all of R20 but ARG0, ARG1, ILEN
and IBUF, which the host may still write. -/
abbrev State.SameResults (s t : State) : Prop :=
  t.crc = s.crc ∧ t.s1 = s.s1 ∧ t.s2 = s.s2 ∧ t.res = s.res ∧ t.status = s.status ∧
    t.olen = s.olen ∧ t.obuf = s.obuf

/-- The commands that only compute checksums (R38): families 1 and 2. -/
def checksumCommand : Instr → Bool
  | .crcInit | .crcByte _ | .crcUpd | .crcRead | .crc32
  | .adlInit | .adlByte _ | .adlUpd | .adlRead | .adler32 => true
  | .dflBlock _ | .dflEncode | .zlibWrap | .pngChunk | .pngEncode => false

/-- The commands that produce an output (R28): families 3 to 6. -/
def framingCommand (i : Instr) : Bool := !checksumCommand i

/-- R14: a structure that computes `f` conforms, for a command, when it gives the command's next state
from every state. What happens inside it is not observed: a command is one step (R8). -/
def Conforms (i : Instr) (f : State → Result) : Prop := ∀ s : State, f s = exec i s

/-- A sequence of commands, issued one after the other (R23, R62). -/
def execAll : List Instr → State → Result
  | [], s => .next s
  | i :: is, s =>
    match exec i s with
    | .next t => execAll is t
    | .fault r => .fault r
    | .refused r => .refused r

/-- The number whose big-endian bytes these are. -/
def beNat (bs : List Byte) : Nat := bs.foldl (fun n b => 256 * n + b.toNat) 0

/-- The number whose little-endian bytes these are. -/
def leNat (lo hi : Byte) : Nat := lo.toNat + 256 * hi.toNat

/-- R166 (e): read a header byte, LEN and NLEN, take LEN bytes, and repeat until a header with bit 0 set
has been read. Answers the data of all blocks, in order, and what is left over. -/
def readStored : Nat → List Byte → Option (List Byte × List Byte)
  | fuel + 1, hdr :: l0 :: l1 :: n0 :: n1 :: rest =>
    let n := leNat l0 l1
    if hdr.toNat < 2 ∧ leNat n0 n1 = 65535 - n ∧ n ≤ rest.length then
      if hdr.toNat = 1 then some (rest.take n, rest.drop n)
      else (readStored fuel (rest.drop n)).map fun r => (rest.take n ++ r.1, r.2)
    else none
  | _, _ => none

/-- A reader of a zlib stream of stored blocks (R92): header, blocks, Adler-32 of the data read. -/
def readZlib (s : List Byte) : Option (List Byte) :=
  if s.take 2 = [0x78, 0x01] then
    match readStored s.length (s.drop 2) with
    | some (d, tail) => if tail = be32 (adler32 d) then some d else none
    | none => none
  else none

/-- A reader of one PNG chunk (R94): type, data, and what follows the chunk. -/
def readChunk (s : List Byte) : Option (List Byte × List Byte × List Byte) :=
  let n := beNat (s.take 4)
  let t := (s.drop 4).take 4
  let d := (s.drop 8).take n
  if d.length = n ∧ (s.drop (8 + n)).take 4 = be32 (crc32 (t ++ d)) then
    some (t, d, s.drop (12 + n))
  else none

/-- A reader of filtered scanlines (R96): `h` rows, each a zero filter byte and `rowBytes` bytes. -/
def readRows (rowBytes : Nat) : Nat → List Byte → Option (List Byte)
  | 0, rest => if rest = [] then some [] else none
  | h + 1, f :: rest =>
    if f = 0 ∧ rowBytes ≤ rest.length then
      (readRows rowBytes h (rest.drop rowBytes)).map (rest.take rowBytes ++ ·)
    else none
  | _ + 1, [] => none

/-- A reader of a PNG file of exactly the chunks IHDR, IDAT, IEND (R98): width, height, pixels. -/
def readPng (s : List Byte) : Option (Nat × Nat × List Byte) :=
  if s.take 8 = [0x89, 0x50, 0x4E, 0x47, 0x0D, 0x0A, 0x1A, 0x0A] then
    match readChunk (s.drop 8) with
    | none => none
    | some (t1, ihdr, r1) =>
      match readChunk r1 with
      | none => none
      | some (t2, idat, r2) =>
        match readChunk r2 with
        | none => none
        | some (t3, iend, r3) =>
          let w := beNat (ihdr.take 4)
          let h := beNat ((ihdr.drop 4).take 4)
          if t1 = [0x49, 0x48, 0x44, 0x52] ∧ ihdr.drop 8 = [8, 2, 0, 0, 0] ∧
              t2 = [0x49, 0x44, 0x41, 0x54] ∧ t3 = [0x49, 0x45, 0x4E, 0x44] ∧
              iend = [] ∧ r3 = [] then
            match readZlib idat with
            | none => none
            | some rows => (readRows (3 * w) h rows).map fun p => (w, h, p)
          else none
  else none

end Sys2Proof.Machine
end

