-- ==== Sys2Proof/Certificates/Slice0/Obligations.lean ====
section
/-!
DEFINITION. The statements for the provers. They come from the numbered rules of spec/; each docstring
names the rules. `s.code = 0#4` is "not halted" (R30); `s.input = some data` says that the input
`IBUF[0..ILEN)` is the byte sequence `data` (R29), which the invariant gives in every reachable state.
-/

open Sys2Proof Sys2Proof.Machine

/-! ## The command word -/

/-- R83, R84, R86: a command's word decodes to that command, operands included, and a word that decodes
to a command is that command's word. -/
def Obligations.DecodeAndEncodeAgree : Prop :=
  (∀ i : Instr, decode (encode i) = .ok i) ∧
  (∀ (w : Half) (i : Instr), decode w = .ok i → encode i = w)

/-- R83, R84: a word is legal when a row of the opcode map selects it; the command is that row's; no two
rows select the same word. -/
def Obligations.LegalWordsAreThoseARowSelects : Prop :=
  (∀ w : Half, (∃ i, decode w = .ok i) ↔ ∃ r ∈ opcodeTable, r.selects w = true) ∧
  (∀ (w : Half) (i : Instr) (r : OpcodeRow), decode w = .ok i → r ∈ opcodeTable → r.selects w = true →
    i.mnemonic = r.mnemonic ∧ i.format = r.format) ∧
  (∀ (w : Half) (r r' : OpcodeRow), r ∈ opcodeTable → r' ∈ opcodeTable →
    r.selects w = true → r'.selects w = true → r = r')

/-- R83, spec section 8 of the test vectors: words of every family and what they stand for. -/
def Obligations.WrittenOutWordsDecode : Prop :=
  decode 0x1000#16 = .ok .crcInit ∧ decode 0x11FF#16 = .ok (.crcByte 0xFF) ∧
  decode 0x1400#16 = .ok .crc32 ∧ decode 0x21A5#16 = .ok (.adlByte 0xA5) ∧
  decode 0x2300#16 = .ok .adlRead ∧ decode 0x3000#16 = .ok (.dflBlock false) ∧
  decode 0x3001#16 = .ok (.dflBlock true) ∧ decode 0x3100#16 = .ok .dflEncode ∧
  decode 0x4000#16 = .ok .zlibWrap ∧ decode 0x5000#16 = .ok .pngChunk ∧
  decode 0x6000#16 = .ok .pngEncode

/-- R80, with R86: a word is its two fields, the operation code in bits 15:8 and the immediate in bits
7:0; a command's word holds its code and its immediate there, 0 for format N. -/
def Obligations.WordIsOpcodeThenImmediate : Prop :=
  (∀ w : Half, w = (w.extractLsb' 8 8).setWidth 16 <<< 8 ||| (w.extractLsb' 0 8).setWidth 16) ∧
  ∀ i : Instr, (encode i).extractLsb' 8 8 = opcode i ∧ (encode i).extractLsb' 0 8 = i.imm8 ∧
    (i.format = .none → i.imm8 = 0#8)

/-- R225: IllegalCommand, code 4, is what a running block takes exactly for a word with an undefined
operation code, a non-zero immediate on a format N command, or one of bits 7:1 set on DFL_BLOCK. -/
def Obligations.IllegalWordsTakeIllegalCommand : Prop :=
  ∀ (w : Half) (s : State), s.code = 0#4 →
    let op := w.extractLsb' 8 8
    let imm := w.extractLsb' 0 8
    let formatN : List Byte := [0x10, 0x12, 0x13, 0x14, 0x20, 0x22, 0x23, 0x24, 0x31, 0x40, 0x50, 0x60]
    let illegal := op ∉ formatN ++ [0x11, 0x21, 0x30] ∨ (op ∈ formatN ∧ imm ≠ 0#8) ∨
      (op = 0x30#8 ∧ imm &&& 0xFE#8 ≠ 0#8)
    (illegal → issue w s = .next { s with status := 4 }) ∧
    (¬ illegal → ∀ t, issue w s = .next t → t.code ≠ 4#4)

/-! ## Steps -/

/-- R22, R23, R120: when the host's next move writes a word to CMD, the step runs the command the word
decodes to, on the state with that move taken off the list; an illegal word takes IllegalCommand, or
does nothing while halted. -/
def Obligations.StepRunsTheDecodedCommand : Prop :=
  (∀ (w : Half) (rest : List HostMove) (s : State), s.pending = .writeReg 0 w.toNat :: rest →
    (∀ i, decode w = .ok i → step s = exec i { s with pending := rest }) ∧
    (∀ e, decode w = .error e → s.code = 0#4 →
      step s = .next { s with pending := rest, status := 4 }) ∧
    (∀ e, decode w = .error e → s.code ≠ 0#4 → step s = .next { s with pending := rest })) ∧
  (∀ (w : Half) (i : Instr) (s : State), decode w = .ok i →
    step (s.withFetchWord 16 w.toNat) = exec i s)

/-- R51, R244: when the host does not move, nothing changes; another move is taken off the list and
performed. The list itself, and that a reset leaves it, the capacities and the replies alone, are the
model's own (log entries 1 to 3). -/
def Obligations.StepTakesTheNextMove : Prop :=
  (∀ s : State, s.pending = [] → step s = .next s) ∧
  (∀ (s : State) (rest : List HostMove), s.pending = .noMove :: rest →
    step s = .next { s with pending := rest }) ∧
  (∀ (s : State) (m : HostMove) (rest : List HostMove), s.pending = m :: rest →
    step s = perform m { s with pending := rest }) ∧
  (∀ s t : State, perform .reset s = .next t →
    t.cfg = s.cfg ∧ t.pending = s.pending ∧ t.replies = s.replies)

/-! ## Reset -/

/-- R37: the state after reset. (The capacities and the empty lists of moves and replies are the model's
own, log entries 1 to 3; no clause speaks of them.) -/
def Obligations.ResetState : Prop :=
  State.reset.crc = 0xFFFFFFFF#32 ∧ State.reset.s1 = 1#16 ∧ State.reset.s2 = 0#16 ∧
  State.reset.arg0 = 0#32 ∧ State.reset.arg1 = 0#32 ∧ State.reset.res = 0#32 ∧
  State.reset.status = 0#32 ∧ State.reset.ilen = 0 ∧ State.reset.olen = 0 ∧
  (∀ i, State.reset.inputByte i = none) ∧ (∀ i, State.reset.outputByte i = none)

/-- R260: HostReset puts all eleven items at the values of R37, from every state, and so clears
STATUS.CODE. -/
def Obligations.HostResetFromAnyState : Prop :=
  ∀ s : State, ∃ t, perform .reset s = .next t ∧
    t.crc = 0xFFFFFFFF#32 ∧ t.s1 = 1#16 ∧ t.s2 = 0#16 ∧ t.arg0 = 0#32 ∧ t.arg1 = 0#32 ∧
    t.res = 0#32 ∧ t.status = 0#32 ∧ t.ilen = 0 ∧ t.olen = 0 ∧
    (∀ i, t.inputByte i = none) ∧ (∀ i, t.outputByte i = none) ∧ t.code = 0#4

/-! ## Host moves -/

/-- R52: a load of at most IBUF_CAP bytes replaces the input whole and nothing else; a longer one is not
admitted. -/
def Obligations.HostLoadReplacesTheInput : Prop :=
  ∀ (bs : List Byte) (s : State),
    (bs.length ≤ s.cfg.ibufCap → ∃ t, perform (.load bs) s = .next t ∧
      t.ilen = bs.length ∧ (∀ i, t.inputByte i = bs[i]?) ∧ t.input = some bs ∧
      t = { s with ibuf := t.ibuf, ilen := t.ilen }) ∧
    (s.cfg.ibufCap < bs.length → perform (.load bs) s = .refused .loadTooLong)

/-- R53: HostReadOut returns exactly the OLEN bytes of the output and changes nothing of the block. -/
def Obligations.HostReadOutReturnsTheOutput : Prop :=
  ∀ (s : State) (out : List Byte), s.output = some out →
    perform .readOut s = .next { s with replies := .out out :: s.replies } ∧ out.length = s.olen ∧
    (∀ i, i < s.olen → s.outputByte i = out[i]?)

/-- R21, R24, R25, R51: host writes by register number: ARG0, ARG1, and CMD, which issues a command;
every other write is not admitted. -/
def Obligations.HostRegisterWrites : Prop :=
  ∀ (s : State) (n v : Nat),
    (n = 0 → v < 2 ^ 16 → perform (.writeReg n v) s = issue (BitVec.ofNat 16 v) s) ∧
    (n = 2 → v < 2 ^ 32 → perform (.writeReg n v) s = .next { s with arg0 := BitVec.ofNat 32 v }) ∧
    (n = 3 → v < 2 ^ 32 → perform (.writeReg n v) s = .next { s with arg1 := BitVec.ofNat 32 v }) ∧
    (n = 0 → 2 ^ 16 ≤ v → perform (.writeReg n v) s = .refused .valueTooWide) ∧
    (n = 2 ∨ n = 3 → 2 ^ 32 ≤ v → perform (.writeReg n v) s = .refused .valueTooWide) ∧
    (n = 1 ∨ n = 4 ∨ n = 5 ∨ n = 6 → perform (.writeReg n v) s = .refused .notWritable) ∧
    (7 ≤ n → perform (.writeReg n v) s = .refused .noSuchRegister)

/-- R21, R30, R51: host reads by register number return the register and change nothing of the block;
STATUS reads as CODE with bits 31:4 zero; a read of CMD or of number 7 and above is not admitted. -/
def Obligations.HostRegisterReads : Prop :=
  ∀ (s : State) (n : Nat),
    perform (.readReg 1) s = .next { s with replies := .reg 1 s.code.toNat :: s.replies } ∧
    perform (.readReg 2) s = .next { s with replies := .reg 2 s.arg0.toNat :: s.replies } ∧
    perform (.readReg 3) s = .next { s with replies := .reg 3 s.arg1.toNat :: s.replies } ∧
    perform (.readReg 4) s = .next { s with replies := .reg 4 s.res.toNat :: s.replies } ∧
    perform (.readReg 5) s = .next { s with replies := .reg 5 s.ilen :: s.replies } ∧
    perform (.readReg 6) s = .next { s with replies := .reg 6 s.olen :: s.replies } ∧
    perform (.readReg 0) s = .refused .notReadable ∧
    (7 ≤ n → perform (.readReg n) s = .refused .noSuchRegister)

/-! ## Family 1, the CRC -/

/-- R121: one round is a logical shift right, with the polynomial added when the bit shifted out,
tested before the shift, was 1. -/
def Obligations.CrcRoundShiftsAndAdds : Prop :=
  ∀ c : Word,
    crcRound c = if c.getLsbD 0 then (c >>> 1) ^^^ 0xEDB88320#32 else c >>> 1

/-- R122: a byte enters the low end of the state, then exactly eight rounds follow; for a fixed byte
the step is a bijection on states. -/
def Obligations.CrcStepIsEightRoundsAndABijection : Prop :=
  (∀ (c : Word) (b : Byte), crcStep c b =
    crcRound (crcRound (crcRound (crcRound (crcRound (crcRound (crcRound (crcRound
      (c ^^^ b.setWidth 32))))))))) ∧
  (∀ b : Byte, Function.Bijective fun c : Word => crcStep c b)

/-- R129 (c), R14: the table-driven form is the same function, `T[i]` being the step from 0 on i, eight
rounds on i; so a structure that computes CRC_BYTE with it conforms. -/
def Obligations.CrcTableDrivenFormAgrees : Prop :=
  (∀ (c : Word) (b : Byte),
    crcStep c b = (c >>> 8) ^^^ crcStep 0#32 ((c ^^^ b.setWidth 32).extractLsb' 0 8)) ∧
  (∀ i : Byte, crcTable i = crcStep 0#32 i) ∧
  crcTable 0x00 = 0x00000000#32 ∧ crcTable 0x01 = 0x77073096#32 ∧
  crcTable 0x80 = 0xEDB88320#32 ∧ crcTable 0xFF = 0x2D02EF8D#32 ∧
  (∀ (c : Word) (b : Byte), crcStepByTable c b = crcStep c b) ∧
  (∀ b : Byte, Conforms (.crcByte b) fun s =>
    if s.code = 0#4 then .next { s with crc := crcStepByTable s.crc b } else .next s)

/-- R123, R143: both checksums are folds from index 0 upward, finished as the rules say, and take the
published values; so they chain (R129 (a), R149 (a)). -/
def Obligations.ChecksumsAreFoldsAndMatchPublishedValues : Prop :=
  (∀ c : Word, crcRun c [] = c) ∧
  (∀ (c : Word) (b : Byte) (s : List Byte), crcRun c (b :: s) = crcRun (crcStep c b) s) ∧
  (∀ s : List Byte, crc32 s = crcRun 0xFFFFFFFF s ^^^ 0xFFFFFFFF) ∧
  (∀ v : Half × Half, adlRun v [] = v) ∧
  (∀ (v : Half × Half) (b : Byte) (s : List Byte), adlRun v (b :: s) = adlRun (adlStep v b) s) ∧
  (∀ s : List Byte, adler32 s = (adlRun (1, 0) s).2 ++ (adlRun (1, 0) s).1) ∧
  (∀ (c : Word) (s t : List Byte), crcRun c (s ++ t) = crcRun (crcRun c s) t) ∧
  (∀ (v : Half × Half) (s t : List Byte), adlRun v (s ++ t) = adlRun (adlRun v s) t) ∧
  crc32 [0x31, 0x32, 0x33, 0x34, 0x35, 0x36, 0x37, 0x38, 0x39] = 0xCBF43926#32 ∧
  crc32 [] = 0#32 ∧ adler32 [] = 1#32 ∧ adler32 [0x61] = 0x00620062#32

/-- R124: word 0x1000; CRC becomes its initial value, whatever it was. -/
def Obligations.CrcInitSetsTheInitialState : Prop :=
  encode .crcInit = 0x1000#16 ∧ ∀ s : State, s.code = 0#4 → exec .crcInit s = .next { s with crc := 0xFFFFFFFF }

/-- R125: word 0x1100 with the byte; one byte is fed to whatever CRC holds. -/
def Obligations.CrcByteFeedsOneByte : Prop :=
  ∀ b : Byte, encode (.crcByte b) = 0x1100#16 ||| b.setWidth 16 ∧
    ∀ s : State, s.code = 0#4 → exec (.crcByte b) s = .next { s with crc := crcStep s.crc b }

/-- R126: word 0x1200; the whole input is fed to whatever CRC holds. -/
def Obligations.CrcUpdFeedsTheInput : Prop :=
  encode .crcUpd = 0x1200#16 ∧ ∀ (s : State) (data : List Byte), s.code = 0#4 → s.input = some data →
    exec .crcUpd s = .next { s with crc := crcRun s.crc data }

/-- R127: word 0x1300; the final exclusive-or is applied to the copy, not to the running state. -/
def Obligations.CrcReadWritesTheFinishedChecksum : Prop :=
  encode .crcRead = 0x1300#16 ∧
  ∀ s : State, s.code = 0#4 → exec .crcRead s = .next { s with res := s.crc ^^^ 0xFFFFFFFF }

/-- R128: word 0x1400; CRC and RES of the whole input, from the initial state. -/
def Obligations.Crc32IsTheWholeContract : Prop :=
  encode .crc32 = 0x1400#16 ∧ ∀ (s : State) (data : List Byte), s.code = 0#4 → s.input = some data →
    exec .crc32 s = .next { s with
      crc := crcRun 0xFFFFFFFF data, res := crcRun 0xFFFFFFFF data ^^^ 0xFFFFFFFF }

/-- R126, R146: feeding the input is issuing the byte command for every byte of it, in order. Where the
sums are not reduced, which no run reaches, R141 and R143 define no step and both sides of the clause on
ADL_UPD are the model's choice (log entry 12). -/
def Obligations.UpdIsTheByteCommandRepeated : Prop :=
  ∀ (s : State) (data : List Byte), s.input = some data →
    exec .crcUpd s = execAll (pseudoCrcStr data) s ∧ exec .adlUpd s = execAll (pseudoAdlStr data) s

/-- R128, R148: the one-command contracts are exactly the three unit commands in order. -/
def Obligations.ContractsAreTheUnitCommandsInOrder : Prop :=
  ∀ s : State, exec .crc32 s = execAll [.crcInit, .crcUpd, .crcRead] s ∧
    exec .adler32 s = execAll [.adlInit, .adlUpd, .adlRead] s

/-! ## Family 2, the Adler sums -/

/-- R141, R142: on reduced sums each new sum is the old one plus its summand modulo 65521, the second
taking the NEW first sum; the sums before reduction stay below 2^17, so one conditional subtraction
reduces each. -/
def Obligations.AdlerStepOnReducedSums : Prop :=
  ∀ (s1 s2 : Half) (b : Byte), s1.toNat < 65521 → s2.toNat < 65521 →
    let v1 := s1.toNat + b.toNat
    let n1 := v1 % 65521
    let v2 := s2.toNat + n1
    let n2 := v2 % 65521
    (adlStep (s1, s2) b).1.toNat = n1 ∧ (adlStep (s1, s2) b).2.toNat = n2 ∧
      v1 ≤ 65775 ∧ v2 ≤ 131040 ∧ v1 < 2 ^ 17 ∧ v2 < 2 ^ 17 ∧ n1 < 65521 ∧ n2 < 65521 ∧
      (n1 = if 65521 ≤ v1 then v1 - 65521 else v1) ∧ (n2 = if 65521 ≤ v2 then v2 - 65521 else v2)

/-- R149 (b): the closed form of both sums. -/
def Obligations.AdlerClosedForm : Prop :=
  ∀ s : List Byte,
    (adlRun (1, 0) s).1.toNat =
      (1 + ((List.range s.length).map fun i => (s.getD i 0).toNat).sum) % 65521 ∧
    (adlRun (1, 0) s).2.toNat =
      (s.length + ((List.range s.length).map fun i => (s.length - i) * (s.getD i 0).toNat).sum) % 65521

/-- R144: word 0x2000; the sums become (1, 0), whatever they were. -/
def Obligations.AdlInitSetsTheInitialSums : Prop :=
  encode .adlInit = 0x2000#16 ∧ ∀ s : State, s.code = 0#4 → exec .adlInit s = .next { s with s1 := 1, s2 := 0 }

/-- R145, with R141: word 0x2100 with the byte; one byte is fed to whatever the sums hold; the second sum takes the new first sum.
Where the sums are not reduced, which no run reaches, R141 defines no step and the same formula is the
model's choice (log entry 12). -/
def Obligations.AdlByteFeedsOneByte : Prop :=
  ∀ b : Byte, encode (.adlByte b) = 0x2100#16 ||| b.setWidth 16 ∧ ∀ s : State, s.code = 0#4 →
    let n1 := (s.s1.toNat + b.toNat) % 65521
    exec (.adlByte b) s = .next { s with
      s1 := BitVec.ofNat 16 n1, s2 := BitVec.ofNat 16 ((s.s2.toNat + n1) % 65521) }

/-- R146: word 0x2200; the whole input is fed to whatever the sums hold. Where the sums are not reduced,
which no run reaches, R141 and R143 define no step and the run is the model's choice (log entry 12). -/
def Obligations.AdlUpdFeedsTheInput : Prop :=
  encode .adlUpd = 0x2200#16 ∧ ∀ (s : State) (data : List Byte), s.code = 0#4 → s.input = some data →
    exec .adlUpd s = .next { s with
      s1 := (adlRun (s.s1, s.s2) data).1, s2 := (adlRun (s.s1, s.s2) data).2 }

/-- R147: word 0x2300; RES holds S2 in bits 31:16 and S1 in bits 15:0. -/
def Obligations.AdlReadWritesTheFinishedChecksum : Prop :=
  encode .adlRead = 0x2300#16 ∧ ∀ s : State, s.code = 0#4 → exec .adlRead s = .next { s with res := s.s2 ++ s.s1 }

/-- R148: word 0x2400; the sums and RES of the whole input, from (1, 0). -/
def Obligations.Adler32IsTheWholeContract : Prop :=
  encode .adler32 = 0x2400#16 ∧ ∀ (s : State) (data : List Byte), s.code = 0#4 → s.input = some data →
    let v := adlRun (1, 0) data
    exec .adler32 s = .next { s with s1 := v.1, s2 := v.2, res := v.2 ++ v.1 }

/-! ## Family 3, stored blocks -/

/-- R161, R90: the layout of a stored block byte by byte, LEN and its complement low byte first. -/
def Obligations.StoredBlockLayout : Prop :=
  ∀ (f : Bool) (seg : List Byte), seg.length ≤ 65535 →
    let n := seg.length
    storedBlock f seg = [if f then 0x01 else 0x00, BitVec.ofNat 8 (n % 256), BitVec.ofNat 8 (n / 256),
      BitVec.ofNat 8 ((65535 - n) % 256), BitVec.ofNat 8 ((65535 - n) / 256)] ++ seg

/-- R162: one segment for the empty input, else the least number that covers it; every segment but the
last has 65535 bytes, the last between 1 and 65535 when there is input; in order they are the input. -/
def Obligations.SegmentsPartitionTheInput : Prop :=
  ∀ s : List Byte,
    (∀ k, storedSegment s k = (s.take (min (65535 * (k + 1)) s.length)).drop (65535 * k)) ∧
    (s = [] → nseg s.length = 1) ∧
    (s ≠ [] → 65535 * (nseg s.length - 1) < s.length ∧ s.length ≤ 65535 * nseg s.length) ∧
    (∀ k, k + 1 < nseg s.length → (storedSegment s k).length = 65535) ∧
    (storedSegment s (nseg s.length - 1)).length = s.length - 65535 * (nseg s.length - 1) ∧
    (s ≠ [] → 1 ≤ (storedSegment s (nseg s.length - 1)).length ∧
      (storedSegment s (nseg s.length - 1)).length ≤ 65535) ∧
    (List.range (nseg s.length)).flatMap (storedSegment s) = s

/-- R163, R166, R167: the blocks of all segments in order, the last flagged; one final empty block for
the empty input, one block for 65535 bytes, two for 65536; and a reader of stored blocks that stops at
the first final block reads the whole encoding, finds exactly the input, and leaves exactly what
follows the encoding. -/
def Obligations.DeflateOutputReadsBack : Prop :=
  ∀ s : List Byte,
    let m := nseg s.length
    (deflateStored s =
      (List.range m).flatMap fun k => storedBlock (decide (k = m - 1)) (storedSegment s k)) ∧
    (deflateStored s).length = s.length + 5 * m ∧
    (s = [] → deflateStored s = [0x01, 0x00, 0x00, 0xFF, 0xFF]) ∧
    (s.length = 65535 → deflateStored s = storedBlock true s) ∧
    (s.length = 65536 →
      deflateStored s = storedBlock false (s.take 65535) ++ storedBlock true (s.drop 65535)) ∧
    ∀ tail : List Byte,
      readStored (deflateStored s ++ tail).length (deflateStored s ++ tail) = some (s, tail)

/-- R99: the number of stored blocks and the length of every output. For a segment above 65535 bytes,
chunk data above 2^32 - 1 bytes and an image whose IDAT data is as long, the functions are undefined in
the spec (R161, R190) and the lengths there are the model's choice (log entry 11). -/
def Obligations.OutputLengths : Prop :=
  (∀ n, nseg n = max 1 ((n + 65534) / 65535)) ∧
  (∀ (f : Bool) (seg : List Byte), (storedBlock f seg).length = 5 + seg.length) ∧
  (∀ s : List Byte, (deflateStored s).length = s.length + 5 * nseg s.length) ∧
  (∀ s : List Byte, (zlibWrap s).length = s.length + 5 * nseg s.length + 6) ∧
  (∀ t d : List Byte, t.length = 4 → (pngChunk t d).length = d.length + 12) ∧
  (∀ (w h : Word) (p : List Byte), p.length = 3 * w.toNat * h.toNat →
    let l := h.toNat * (1 + 3 * w.toNat)
    (pngEncode w h p).length = 63 + l + 5 * nseg l)

/-- R164: words 0x3000 and 0x3001, any other with this operation code illegal; BlockTooLarge, then OutputOverflow, else the input as one stored block. -/
def Obligations.DflBlockCommand : Prop :=
  encode (.dflBlock false) = 0x3000#16 ∧ encode (.dflBlock true) = 0x3001#16 ∧
  (∀ w : Half, w.extractLsb' 8 8 = 0x30#8 → w.extractLsb' 1 7 ≠ 0#7 → ∃ e, decode w = .error e) ∧
  ∀ (f : Bool) (s : State), s.code = 0#4 →
    (65535 < s.ilen → exec (.dflBlock f) s = .next { s with status := 2 }) ∧
    (s.ilen ≤ 65535 → s.cfg.obufCap < 5 + s.ilen →
      exec (.dflBlock f) s = .next { s with status := 6 }) ∧
    (∀ data, s.input = some data → s.ilen ≤ 65535 → 5 + s.ilen ≤ s.cfg.obufCap →
      exec (.dflBlock f) s = .next { s with
        obuf := Memory.ofBytes (storedBlock f data), olen := 5 + s.ilen })

/-- R165: word 0x3100; OutputOverflow, else all stored blocks of the input; BlockTooLarge cannot occur. -/
def Obligations.DflEncodeCommand : Prop :=
  encode .dflEncode = 0x3100#16 ∧
  ∀ s : State, s.code = 0#4 →
    (s.cfg.obufCap < s.ilen + 5 * nseg s.ilen → exec .dflEncode s = .next { s with status := 6 }) ∧
    (∀ data, s.input = some data → s.ilen + 5 * nseg s.ilen ≤ s.cfg.obufCap →
      exec .dflEncode s = .next { s with
        obuf := Memory.ofBytes (deflateStored data), olen := s.ilen + 5 * nseg s.ilen })

/-! ## Family 4, the zlib stream -/

/-- R182: word 0x4000; OutputOverflow, else header, stored blocks and the Adler-32 of the unframed input; the sums
are left in S1 and S2. -/
def Obligations.ZlibWrapCommand : Prop :=
  encode .zlibWrap = 0x4000#16 ∧
  ∀ s : State, s.code = 0#4 →
    (s.cfg.obufCap < s.ilen + 5 * nseg s.ilen + 6 →
      exec .zlibWrap s = .next { s with status := 6 }) ∧
    (∀ data, s.input = some data → s.ilen + 5 * nseg s.ilen + 6 ≤ s.cfg.obufCap →
      exec .zlibWrap s = .next { s with
        s1 := (adlRun (1, 0) data).1, s2 := (adlRun (1, 0) data).2,
        obuf := Memory.ofBytes ([0x78, 0x01] ++ deflateStored data ++ be32 (adler32 data)),
        olen := s.ilen + 5 * nseg s.ilen + 6 })

/-- R183 (c): ZLIB_WRAP's output is the header, what DFL_ENCODE commits for the same input, and be32 of
what ADLER32 leaves in RES for it. -/
def Obligations.ZlibOutputIsMadeOfTheLowerCommands : Prop :=
  ∀ s z : State, s.code = 0#4 → exec .zlibWrap s = .next z → z.code = 0#4 →
    ∃ d a out, exec .dflEncode s = .next d ∧ d.code = 0#4 ∧ d.output = some out ∧
      exec .adler32 s = .next a ∧ z.output = some ([0x78, 0x01] ++ out ++ be32 a.res)

/-- R183 (a): a reader of zlib streams expands the output to exactly the input. -/
def Obligations.ZlibOutputReadsBack : Prop :=
  ∀ s : List Byte, readZlib (zlibWrap s) = some s

/-! ## Families 5 and 6, PNG -/

/-- R192, R191: word 0x5000; ChunkTooLong, then OutputOverflow, else length, type, data and the CRC-32 of
type and data, for every value of ARG0, its most significant byte first; the running state is left in
CRC. -/
def Obligations.PngChunkCommand : Prop :=
  encode .pngChunk = 0x5000#16 ∧
  (∀ v : Word, be32 v =
    [v.extractLsb' 24 8, v.extractLsb' 16 8, v.extractLsb' 8 8, v.extractLsb' 0 8]) ∧
  ∀ s : State, s.code = 0#4 →
    (2 ^ 32 - 1 < s.ilen → exec .pngChunk s = .next { s with status := 5 }) ∧
    (s.ilen ≤ 2 ^ 32 - 1 → s.cfg.obufCap < s.ilen + 12 →
      exec .pngChunk s = .next { s with status := 6 }) ∧
    (∀ data, s.input = some data → s.ilen ≤ 2 ^ 32 - 1 → s.ilen + 12 ≤ s.cfg.obufCap →
      exec .pngChunk s = .next { s with
        crc := crcRun 0xFFFFFFFF (be32 s.arg0 ++ data),
        obuf := Memory.ofBytes (be32 (BitVec.ofNat 32 s.ilen) ++ be32 s.arg0 ++ data ++
          be32 (crc32 (be32 s.arg0 ++ data))),
        olen := s.ilen + 12 })

/-- R193: the fields of a committed chunk, the CRC field recomputed from the emitted bytes, and the same
field from the unit commands. -/
def Obligations.PngChunkEmittedFields : Prop :=
  ∀ (s t : State) (data : List Byte), s.code = 0#4 → s.input = some data →
    exec .pngChunk s = .next t → t.code = 0#4 →
    ∃ o, t.output = some o ∧ beNat (o.take 4) = s.ilen ∧ (o.drop 4).take 4 = be32 s.arg0 ∧
      (o.drop 8).take s.ilen = data ∧
      o.drop (8 + s.ilen) = be32 (crc32 ((o.drop 4).take (4 + s.ilen))) ∧
      ∃ u, execAll (.crcInit :: pseudoCrcStr (be32 s.arg0) ++ [.crcUpd, .crcRead]) s = .next u ∧
        o.drop (8 + s.ilen) = be32 u.res

/-- R200, R96: the filtered scanlines are h rows of 1 + 3w bytes, row r being the filter byte 0 and the
pixel bytes of that row, unchanged and in order. -/
def Obligations.ScanlineRows : Prop :=
  ∀ (w h : Nat) (p : List Byte), p.length = 3 * w * h →
    (scanlines w h p).length = h * (1 + 3 * w) ∧
    ∀ r, r < h → ((scanlines w h p).drop (r * (1 + 3 * w))).take (1 + 3 * w) =
      0x00 :: (p.drop (3 * w * r)).take (3 * w)

/-- R206: word 0x6000; InputSizeMismatch, then ChunkTooLong, then OutputOverflow, else the PNG file; the sums of the
filtered scanlines are left in S1 and S2, the running state of IEND in CRC. -/
def Obligations.PngEncodeCommand : Prop :=
  encode .pngEncode = 0x6000#16 ∧ crcRun 0xFFFFFFFF [0x49, 0x45, 0x4E, 0x44] = 0x51BD9F7D#32 ∧
  ∀ s : State, s.code = 0#4 →
    let w := s.arg0.toNat
    let h := s.arg1.toNat
    let l := h * (1 + 3 * w)
    let z := l + 5 * nseg l + 6
    (s.ilen ≠ 3 * w * h → exec .pngEncode s = .next { s with status := 1 }) ∧
    (s.ilen = 3 * w * h → 2 ^ 32 - 1 < z → exec .pngEncode s = .next { s with status := 5 }) ∧
    (s.ilen = 3 * w * h → z ≤ 2 ^ 32 - 1 → s.cfg.obufCap < 63 + l + 5 * nseg l →
      exec .pngEncode s = .next { s with status := 6 }) ∧
    (∀ data, s.input = some data → s.ilen = 3 * w * h → z ≤ 2 ^ 32 - 1 →
      63 + l + 5 * nseg l ≤ s.cfg.obufCap →
      exec .pngEncode s = .next { s with
        crc := 0x51BD9F7D,
        s1 := (adlRun (1, 0) (scanlines w h data)).1, s2 := (adlRun (1, 0) (scanlines w h data)).2,
        obuf := Memory.ofBytes (pngEncode s.arg0 s.arg1 data), olen := 63 + l + 5 * nseg l })

/-- R202, R203, R204, R98: the file is the signature and exactly the chunks IHDR, IDAT and IEND, at the
offsets and of the lengths the rules give. For pixels of another length than 3wh and for IDAT data above
2^32 - 1 bytes the functions are undefined in the spec (R201, R190) and what the clauses on the IDAT data
and the file say there is the model's choice (log entry 11). -/
def Obligations.PngFileLayout : Prop :=
  ∀ (w h : Word) (p : List Byte),
    let l := h.toNat * (1 + 3 * w.toNat)
    ihdrData w h = be32 w ++ be32 h ++ [8, 2, 0, 0, 0] ∧ (ihdrData w h).length = 13 ∧
    idatData w h p = zlibWrap (scanlines w.toNat h.toNat p) ∧
    pngEncode w h p = [0x89, 0x50, 0x4E, 0x47, 0x0D, 0x0A, 0x1A, 0x0A] ++
      pngChunk [0x49, 0x48, 0x44, 0x52] (ihdrData w h) ++
      pngChunk [0x49, 0x44, 0x41, 0x54] (idatData w h p) ++
      [0, 0, 0, 0, 0x49, 0x45, 0x4E, 0x44, 0xAE, 0x42, 0x60, 0x82] ∧
    (pngChunk [0x49, 0x48, 0x44, 0x52] (ihdrData w h)).length = 25 ∧
    (p.length = 3 * w.toNat * h.toNat → (idatData w h p).length = l + 5 * nseg l + 6 ∧
      (pngEncode w h p).length = 63 + l + 5 * nseg l)

/-- R207 (a): the output of a completed PNG_ENCODE, read by a reader of exactly these PNG files, gives
back the width, the height and the pixels. -/
def Obligations.PngOutputReadsBack : Prop :=
  ∀ (s t : State) (pixels : List Byte), s.code = 0#4 → s.input = some pixels →
    exec .pngEncode s = .next t → t.code = 0#4 →
    ∃ out, t.output = some out ∧ readPng out = some (s.arg0.toNat, s.arg1.toNat, pixels)

/-! ## Faults and the halt -/

/-- R230: a fault is precise: when a word or a command issued to a running block leaves a code, STATUS
is that code and nothing else has changed. -/
def Obligations.FaultsArePrecise : Prop :=
  (∀ (i : Instr) (s t : State), s.code = 0#4 → exec i s = .next t → t.code ≠ 0#4 →
    t = { s with status := t.code.setWidth 32 } ∧ t.code ∈ ([1, 2, 5, 6] : List (BitVec 4))) ∧
  (∀ (w : Half) (s t : State), s.code = 0#4 → issue w s = .next t → t.code ≠ 0#4 →
    t = { s with status := t.code.setWidth 32 } ∧ t.code ∈ ([1, 2, 4, 5, 6] : List (BitVec 4)))

/-- R222, R223: InputSizeMismatch is raised by PNG_ENCODE alone, exactly on a wrong length, and
BlockTooLarge by DFL_BLOCK alone, exactly above 65535 bytes. -/
def Obligations.DocumentFaultsExactlyWhen : Prop :=
  ∀ (i : Instr) (s t : State), s.code = 0#4 → exec i s = .next t →
    (t.code = 1#4 ↔ i = .pngEncode ∧ s.ilen ≠ 3 * s.arg0.toNat * s.arg1.toNat) ∧
    (t.code = 2#4 ↔ (∃ f, i = .dflBlock f) ∧ 65535 < s.ilen)

/-- R227, R228, R229: ChunkTooLong and OutputOverflow exactly when no earlier check of the command has
failed and the length does not fit. -/
def Obligations.CapacityFaultsExactlyWhen : Prop :=
  ∀ (i : Instr) (s t : State), s.code = 0#4 → exec i s = .next t →
    let w := s.arg0.toNat
    let h := s.arg1.toNat
    let l := h * (1 + 3 * w)
    (t.code = 5#4 ↔ (i = .pngChunk ∧ 2 ^ 32 - 1 < s.ilen) ∨
      (i = .pngEncode ∧ s.ilen = 3 * w * h ∧ 2 ^ 32 - 1 < l + 5 * nseg l + 6)) ∧
    (t.code = 6#4 ↔
      ((∃ f, i = .dflBlock f) ∧ s.ilen ≤ 65535 ∧ s.cfg.obufCap < 5 + s.ilen) ∨
      (i = .dflEncode ∧ s.cfg.obufCap < s.ilen + 5 * nseg s.ilen) ∨
      (i = .zlibWrap ∧ s.cfg.obufCap < s.ilen + 5 * nseg s.ilen + 6) ∨
      (i = .pngChunk ∧ s.ilen ≤ 2 ^ 32 - 1 ∧ s.cfg.obufCap < s.ilen + 12) ∨
      (i = .pngEncode ∧ s.ilen = 3 * w * h ∧ l + 5 * nseg l + 6 ≤ 2 ^ 32 - 1 ∧
        s.cfg.obufCap < 63 + l + 5 * nseg l))

/-- R231: while halted every command, legal or illegal, has no effect; loads, writes of ARG0 and ARG1,
reads of registers 1 to 6 and the read-out work, and give the values the registers and the output hold;
no move but a reset changes CODE, and a reset clears it. The record of what the reads return is the
model's own (log entry 3). -/
def Obligations.HaltedBlock : Prop :=
  ∀ s : State, s.code ≠ 0#4 →
    (∀ w, issue w s = .next s) ∧ (∀ i, exec i s = .next s) ∧
    (∀ bs, bs.length ≤ s.cfg.ibufCap →
      perform (.load bs) s = .next { s with ibuf := Memory.ofBytes bs, ilen := bs.length }) ∧
    (∀ v, v < 2 ^ 32 → perform (.writeReg 2 v) s = .next { s with arg0 := BitVec.ofNat 32 v } ∧
      perform (.writeReg 3 v) s = .next { s with arg1 := BitVec.ofNat 32 v }) ∧
    (∀ r ∈ [(1, s.code.toNat), (2, s.arg0.toNat), (3, s.arg1.toNat), (4, s.res.toNat), (5, s.ilen),
        (6, s.olen)],
      perform (.readReg r.1) s = .next { s with replies := .reg r.1 r.2 :: s.replies }) ∧
    (∀ out, s.output = some out →
      perform .readOut s = .next { s with replies := .out out :: s.replies }) ∧
    (∀ m t, m ≠ .reset → perform m s = .next t → t.status = s.status) ∧
    (∃ t, perform .reset s = .next t ∧ t.code = 0#4)

/-- R39, R231: along a run of any length without a reset, a halted block keeps everything but ARG0,
ARG1, ILEN and IBUF. -/
def Obligations.HaltedRunKeepsResults : Prop :=
  ∀ (n : Nat) (s t : State), s.code ≠ 0#4 → .reset ∉ s.pending →
    Host.Core.run core n s = .next t →
    t.crc = s.crc ∧ t.s1 = s.s1 ∧ t.s2 = s.s2 ∧ t.res = s.res ∧ t.status = s.status ∧
      t.olen = s.olen ∧ (∀ i, t.outputByte i = s.outputByte i)

/-! ## Frames -/

/-- R38: what the ten checksum commands leave unchanged: everything outside the command's row, every
byte of both buffers, and STATUS, since none of them faults (R229). -/
def Obligations.ChecksumCommandFrame : Prop :=
  ∀ (i : Instr) (s t : State), checksumCommand i = true → exec i s = .next t →
    t.arg0 = s.arg0 ∧ t.arg1 = s.arg1 ∧ t.status = s.status ∧ t.ilen = s.ilen ∧ t.olen = s.olen ∧
    (∀ a, t.inputByte a = s.inputByte a) ∧ (∀ a, t.outputByte a = s.outputByte a) ∧
    t.cfg = s.cfg ∧ t.pending = s.pending ∧ t.replies = s.replies ∧
    ((i = .crcRead ∨ i = .adlInit ∨ i = .adlUpd ∨ i = .adlRead ∨ i = .adler32 ∨
      (∃ b, i = .adlByte b)) → t.crc = s.crc) ∧
    ((i = .adlRead ∨ i = .crcInit ∨ i = .crcUpd ∨ i = .crcRead ∨ i = .crc32 ∨
      (∃ b, i = .crcByte b)) → t.s1 = s.s1 ∧ t.s2 = s.s2) ∧
    ((i = .crcInit ∨ i = .crcUpd ∨ i = .adlInit ∨ i = .adlUpd ∨
      (∃ b, i = .crcByte b ∨ i = .adlByte b)) → t.res = s.res)

/-- R38, R54, R230: what the five framing commands leave unchanged: ARG0, ARG1, RES, ILEN, every byte of
the input, the unit registers outside the command's row, and STATUS unless it faults; when it faults (or
the block is halted) every byte of the output too. When it completes OBUF is replaced from index 0, and
no index at or above the new OLEN holds a value (R29). -/
def Obligations.FramingCommandFrame : Prop :=
  ∀ (i : Instr) (s t : State), framingCommand i = true → exec i s = .next t →
    t.arg0 = s.arg0 ∧ t.arg1 = s.arg1 ∧ t.res = s.res ∧ t.ilen = s.ilen ∧
    (∀ a, t.inputByte a = s.inputByte a) ∧
    t.cfg = s.cfg ∧ t.pending = s.pending ∧ t.replies = s.replies ∧
    (i ≠ .pngChunk → i ≠ .pngEncode → t.crc = s.crc) ∧
    (i ≠ .zlibWrap → i ≠ .pngEncode → t.s1 = s.s1 ∧ t.s2 = s.s2) ∧
    (t.code ≠ 0#4 → t.crc = s.crc ∧ t.s1 = s.s1 ∧ t.s2 = s.s2 ∧ t.olen = s.olen ∧
      (∀ a, t.outputByte a = s.outputByte a)) ∧
    (t.code = 0#4 → t.status = s.status ∧ (∀ a, t.olen ≤ a → t.obuf.read a = none))

/-- R38, C6: the result of a composite command depends on its operands alone: two running states that
agree on the capacities, ARG0, ARG1 and the input, and differ in anything else, get the same code and,
when it completes, the same values in everything the command writes. -/
def Obligations.CompositeResultsIgnoreOldRegisters : Prop :=
  ∀ (i : Instr) (s s' t t' : State),
    framingCommand i = true ∨ i = .crc32 ∨ i = .adler32 → s.code = 0#4 → s'.code = 0#4 →
    s'.cfg = s.cfg → s'.arg0 = s.arg0 → s'.arg1 = s.arg1 → s'.ilen = s.ilen → s'.ibuf = s.ibuf →
    exec i s = .next t → exec i s' = .next t' →
    t'.code = t.code ∧
    (t.code = 0#4 →
      (framingCommand i = true → t'.olen = t.olen ∧ t'.obuf = t.obuf) ∧
      (i = .crc32 ∨ i = .pngChunk ∨ i = .pngEncode → t'.crc = t.crc) ∧
      (i = .adler32 ∨ i = .zlibWrap ∨ i = .pngEncode → t'.s1 = t.s1 ∧ t'.s2 = t.s2) ∧
      (i = .crc32 ∨ i = .adler32 → t'.res = t.res))

/-! ## Invariants -/

/-- R39: reset meets the invariant, in every configuration. -/
def Obligations.ResetMeetsTheInvariant : Prop :=
  ∀ cfg : Config, (State.resetFor cfg).Inv ∧ State.reset.Inv

/-- R39: every step keeps the invariant: reduced sums, lengths within the capacities, a legal STATUS,
and buffers whose valid bytes are exactly those below their length registers. -/
def Obligations.StepKeepsTheInvariant : Prop :=
  ∀ s t : State, s.Inv → step s = .next t → t.Inv

/-- R39, the model's canonical form: a state that meets the invariant has both buffers in canonical form
and both can be read whole. -/
def Obligations.InvariantStatesHaveReadableBuffers : Prop :=
  ∀ s : State, s.Inv → s.ibuf.wf ∧ s.obuf.wf ∧
    (∃ data, s.input = some data ∧ data.length = s.ilen) ∧
    (∃ out, s.output = some out ∧ out.length = s.olen)

/-- R13, R240: from a state that meets the invariant every command ends in a next state, and a step ends
in a next state or in a move that is not admitted, never in a stop of the model's own. -/
def Obligations.EveryCommandEndsInANextState : Prop :=
  ∀ s : State, s.Inv → (∀ i, ∃ t, exec i s = .next t) ∧ (∀ w, ∃ t, issue w s = .next t) ∧
    ((∃ t, step s = .next t) ∨ ∃ r, step s = .refused r)

/-! ## Listings -/

/-- R87, R22, R23, with R125 and R145: running the host moves of `CRC_STR` or `ADL_STR` on a running block
feeds the bytes of the string to CRC or to the sums in order, one step each, and changes nothing else;
DFL_FINAL and DFL_MORE are the words 0x3001 and 0x3000. Where the sums are not reduced, which no run
reaches, R141 and R143 define no step and the result of ADL_STR is the model's choice (log entry 12); the
list of moves is the model's own (log entry 1). -/
def Obligations.PseudoInstructionsRunAsExpanded : Prop :=
  (∀ (bs : List Byte) (rest : List HostMove) (s : State), s.code = 0#4 →
    s.pending = (ListingLine.crcStr bs).moves ++ rest →
    Host.Core.run core bs.length s = .next { s with crc := crcRun s.crc bs, pending := rest }) ∧
  (∀ (bs : List Byte) (rest : List HostMove) (s : State), s.code = 0#4 →
    s.pending = (ListingLine.adlStr bs).moves ++ rest →
    Host.Core.run core bs.length s = .next { s with
      s1 := (adlRun (s.s1, s.s2) bs).1, s2 := (adlRun (s.s1, s.s2) bs).2, pending := rest }) ∧
  ListingLine.dflFinal.moves = [.writeReg 0 0x3001] ∧ ListingLine.dflMore.moves = [.writeReg 0 0x3000]

/-! ## The run -/

/-- R20, R23, R36: the block's state is the eleven items, and the capacities and the list of host moves
are parameters. No command changes the run, and its effect on the block is the same in every run with
the same capacities; a host read leaves the block as it is; and the steps that take a program off the
list do what the run with that program as a parameter does. Where the interface keeps the parameters and
the record of the reads is the model's own (log entries 1 to 3). -/
def Obligations.RunParametersAreNotState : Prop :=
  (∀ (i : Instr) (s t : State), exec i s = .next t → t.toRun = s.toRun) ∧
  (∀ (i : Instr) (s t : State) (r : Run), r.cfg = s.cfg → exec i s = .next t →
    exec i { s with toRun := r } = .next { t with toRun := r }) ∧
  (∀ (m : HostMove) (s t : State), m = .readOut ∨ (∃ n, m = .readReg n) → perform m s = .next t →
    t.toBlock = s.toBlock) ∧
  (∀ (program rest : List HostMove) (s : State), s.pending = program ++ rest →
    Host.Core.run core program.length s =
      match runProgram s.cfg program s.toBlock s.replies with
      | .next (b, rs) =>
        .next { toBlock := b, toRun := { cfg := s.cfg, pending := rest, replies := rs } }
      | .fault r => .fault r
      | .refused r => .refused r)
end

