-- ==== Sys2Proof/Laws/Formats.lean ====
section
/-!
SUPPORT. Small lemmas about the pure functions: bytes of words, the two folds, and the lengths of the
pieces every output is made of (`30_encoding.md` R99).
-/

namespace Sys2Proof.Machine

@[simp] theorem be32_length (v : Word) : (be32 v).length = 4 := rfl

@[simp] theorem le16_length (v : Half) : (le16 v).length = 2 := rfl

@[simp] theorem crcRun_nil (c : Word) : crcRun c [] = c := rfl

@[simp] theorem crcRun_cons (c : Word) (b : Byte) (s : List Byte) :
    crcRun c (b :: s) = crcRun (crcStep c b) s := rfl

@[simp] theorem adlRun_nil (v : Half × Half) : adlRun v [] = v := rfl

@[simp] theorem adlRun_cons (v : Half × Half) (b : Byte) (s : List Byte) :
    adlRun v (b :: s) = adlRun (adlStep v b) s := rfl

theorem byteAsWord_eq (b : Byte) : byteAsWord b = b.setWidth 32 := rfl

theorem byteAsSum_eq (b : Byte) : byteAsSum b = b.toNat := by
  simp only [byteAsSum, BitVec.toNat_setWidth]
  exact Nat.mod_eq_of_lt (Nat.lt_of_lt_of_le b.isLt (by decide))

theorem crcFinish_eq (c : Word) : crcFinish c = c ^^^ 0xFFFFFFFF := rfl

/-- R141: one step leaves both sums reduced, whatever they were. -/
theorem adlStep_reduced (v : Half × Half) (b : Byte) :
    (adlStep v b).1.toNat < 65521 ∧ (adlStep v b).2.toNat < 65521 := by
  simp only [adlStep, adlerMod, BitVec.toNat_ofNat]
  omega

/-- R143: a run from reduced sums leaves reduced sums. -/
theorem adlRun_reduced {v : Half × Half} (h : v.1.toNat < 65521 ∧ v.2.toNat < 65521)
    (s : List Byte) : (adlRun v s).1.toNat < 65521 ∧ (adlRun v s).2.toNat < 65521 := by
  induction s generalizing v with
  | nil => exact h
  | cons b s ih => exact ih (adlStep_reduced v b)

theorem adlerStart_reduced : adlerStart.1.toNat < 65521 ∧ adlerStart.2.toNat < 65521 := by decide

theorem storedBlock_length_eq (f : Bool) (seg : List Byte) :
    (storedBlock f seg).length = storedLength seg.length := by
  simp [storedBlock, storedLength]
  omega

/-- R162: nseg is positive. -/
theorem nseg_pos (n : Nat) : 0 < nseg n := by
  simp only [nseg, maxStored]
  split <;> omega

/-- R162: nseg segments cover the input. -/
theorem le_mul_nseg (n : Nat) : n ≤ maxStored * nseg n := by
  simp only [nseg, maxStored]
  split <;> omega

/-- R162: the last segment is not empty unless the input is. -/
theorem mul_pred_nseg_lt {n : Nat} (h : n ≠ 0) : maxStored * (nseg n - 1) < n := by
  simp only [nseg, maxStored, if_neg h]
  omega

/-- The blocks of the first m segments, joined: every one adds its five header bytes. -/
theorem blocks_length (s : List Byte) (flag : Nat → Bool) (m : Nat) :
    ((List.range m).flatMap fun k => storedBlock (flag k) (storedSegment s k)).length =
      (s.take (maxStored * m)).length + 5 * m := by
  induction m with
  | zero => simp
  | succ m ih =>
    have hs : (storedSegment s m).length = min maxStored (s.length - maxStored * m) := by
      simp [storedSegment]
    simp only [List.range_succ, List.flatMap_append, List.length_append, ih, List.flatMap_cons,
      List.flatMap_nil, List.append_nil, storedBlock_length_eq, storedLength, hs, List.length_take]
    simp only [maxStored]
    omega

theorem deflateStored_length_eq (s : List Byte) :
    (deflateStored s).length = deflateLength s.length := by
  have h := le_mul_nseg s.length
  simp only [deflateStored, blocks_length s (fun k => k + 1 == nseg s.length), deflateLength,
    List.length_take]
  omega

theorem zlibFrame_length_eq (s : List Byte) (a : Word) :
    (zlibFrame s a).length = zlibLength s.length := by
  simp only [zlibFrame, zlibHeader, zlibLength, List.length_append, deflateStored_length_eq,
    deflateLength, be32_length, List.length_cons, List.length_nil]
  omega

theorem chunkFrame_length_eq {t : List Byte} (ht : t.length = 4) (d : List Byte) (c : Word) :
    (chunkFrame t d c).length = chunkLength d.length := by
  simp only [chunkFrame, chunkLength, List.length_append, be32_length, ht]
  omega

theorem filterRows_length (rowBytes h : Nat) (p : List Byte) (hp : p.length = rowBytes * h) :
    (filterRows rowBytes h p).length = h * (1 + rowBytes) := by
  induction h generalizing p with
  | zero => simp [filterRows]
  | succ h ih =>
    have h1 : rowBytes ≤ p.length := by rw [hp, Nat.mul_succ]; omega
    have h2 : (p.drop rowBytes).length = rowBytes * h := by
      rw [List.length_drop, hp, Nat.mul_succ]; omega
    simp only [filterRows, List.length_cons, List.length_append, List.length_take, ih _ h2,
      Nat.min_eq_left h1, Nat.succ_mul]
    omega

theorem scanlines_length_eq (w h : Nat) (p : List Byte) (hp : p.length = bytesPerPixel * w * h) :
    (scanlines w h p).length = scanlinesLength w h :=
  filterRows_length _ h p hp

theorem pngEncode_length_eq (w h : Word) (p : List Byte)
    (hp : p.length = bytesPerPixel * w.toNat * h.toNat) :
    (pngEncode w h p).length = pngLength w.toNat h.toNat := by
  simp only [pngEncode, pngChunk, List.length_append,
    chunkFrame_length_eq (show typeIHDR.length = 4 from rfl),
    chunkFrame_length_eq (show typeIDAT.length = 4 from rfl),
    chunkFrame_length_eq (show typeIEND.length = 4 from rfl), idatData, zlibWrap,
    zlibFrame_length_eq, scanlines_length_eq _ _ _ hp, ihdrData, be32_length, chunkLength,
    zlibLength, pngLength, pngSignature, ihdrTail, List.length_cons, List.length_nil]
  omega

end Sys2Proof.Machine
end

