-- ==== Sys2Proof/Laws/State.lean ====
section
/-!
SUPPORT. One lemma per field per state update, true by rfl, so that no proof unfolds a record update;
then what each update leaves of the views of the state (CODE, the input, the output).
-/

namespace Sys2Proof.Machine

/-! The block after reset (R37), field by field. -/

@[simp] theorem Block.reset_crc : Block.reset.crc = 0xFFFFFFFF := rfl
@[simp] theorem Block.reset_s1 : Block.reset.s1 = 1 := rfl
@[simp] theorem Block.reset_s2 : Block.reset.s2 = 0 := rfl
@[simp] theorem Block.reset_arg0 : Block.reset.arg0 = 0 := rfl
@[simp] theorem Block.reset_arg1 : Block.reset.arg1 = 0 := rfl
@[simp] theorem Block.reset_res : Block.reset.res = 0 := rfl
@[simp] theorem Block.reset_status : Block.reset.status = 0 := rfl
@[simp] theorem Block.reset_ilen : Block.reset.ilen = 0 := rfl
@[simp] theorem Block.reset_olen : Block.reset.olen = 0 := rfl
@[simp] theorem Block.reset_ibuf : Block.reset.ibuf = [] := rfl
@[simp] theorem Block.reset_obuf : Block.reset.obuf = [] := rfl
@[simp] theorem State.reset_toBlock : State.reset.toBlock = Block.reset := rfl
@[simp] theorem State.resetFor_toBlock (cfg : Config) : (State.resetFor cfg).toBlock = Block.reset := rfl
@[simp] theorem State.resetFor_cfg (cfg : Config) : (State.resetFor cfg).cfg = cfg := rfl

variable (s : State)

@[simp] theorem State.setCrc_crc (v : Word) : (s.setCrc v).crc = v := rfl
@[simp] theorem State.setCrc_s1 (v : Word) : (s.setCrc v).s1 = s.s1 := rfl
@[simp] theorem State.setCrc_s2 (v : Word) : (s.setCrc v).s2 = s.s2 := rfl
@[simp] theorem State.setCrc_arg0 (v : Word) : (s.setCrc v).arg0 = s.arg0 := rfl
@[simp] theorem State.setCrc_arg1 (v : Word) : (s.setCrc v).arg1 = s.arg1 := rfl
@[simp] theorem State.setCrc_res (v : Word) : (s.setCrc v).res = s.res := rfl
@[simp] theorem State.setCrc_status (v : Word) : (s.setCrc v).status = s.status := rfl
@[simp] theorem State.setCrc_ilen (v : Word) : (s.setCrc v).ilen = s.ilen := rfl
@[simp] theorem State.setCrc_olen (v : Word) : (s.setCrc v).olen = s.olen := rfl
@[simp] theorem State.setCrc_ibuf (v : Word) : (s.setCrc v).ibuf = s.ibuf := rfl
@[simp] theorem State.setCrc_obuf (v : Word) : (s.setCrc v).obuf = s.obuf := rfl
@[simp] theorem State.setCrc_cfg (v : Word) : (s.setCrc v).cfg = s.cfg := rfl
@[simp] theorem State.setCrc_pending (v : Word) : (s.setCrc v).pending = s.pending := rfl
@[simp] theorem State.setCrc_replies (v : Word) : (s.setCrc v).replies = s.replies := rfl

@[simp] theorem State.setSums_crc (v : Half × Half) : (s.setSums v).crc = s.crc := rfl
@[simp] theorem State.setSums_s1 (v : Half × Half) : (s.setSums v).s1 = v.1 := rfl
@[simp] theorem State.setSums_s2 (v : Half × Half) : (s.setSums v).s2 = v.2 := rfl
@[simp] theorem State.setSums_arg0 (v : Half × Half) : (s.setSums v).arg0 = s.arg0 := rfl
@[simp] theorem State.setSums_arg1 (v : Half × Half) : (s.setSums v).arg1 = s.arg1 := rfl
@[simp] theorem State.setSums_res (v : Half × Half) : (s.setSums v).res = s.res := rfl
@[simp] theorem State.setSums_status (v : Half × Half) : (s.setSums v).status = s.status := rfl
@[simp] theorem State.setSums_ilen (v : Half × Half) : (s.setSums v).ilen = s.ilen := rfl
@[simp] theorem State.setSums_olen (v : Half × Half) : (s.setSums v).olen = s.olen := rfl
@[simp] theorem State.setSums_ibuf (v : Half × Half) : (s.setSums v).ibuf = s.ibuf := rfl
@[simp] theorem State.setSums_obuf (v : Half × Half) : (s.setSums v).obuf = s.obuf := rfl
@[simp] theorem State.setSums_cfg (v : Half × Half) : (s.setSums v).cfg = s.cfg := rfl
@[simp] theorem State.setSums_pending (v : Half × Half) : (s.setSums v).pending = s.pending := rfl
@[simp] theorem State.setSums_replies (v : Half × Half) : (s.setSums v).replies = s.replies := rfl

@[simp] theorem State.setRes_crc (v : Word) : (s.setRes v).crc = s.crc := rfl
@[simp] theorem State.setRes_s1 (v : Word) : (s.setRes v).s1 = s.s1 := rfl
@[simp] theorem State.setRes_s2 (v : Word) : (s.setRes v).s2 = s.s2 := rfl
@[simp] theorem State.setRes_arg0 (v : Word) : (s.setRes v).arg0 = s.arg0 := rfl
@[simp] theorem State.setRes_arg1 (v : Word) : (s.setRes v).arg1 = s.arg1 := rfl
@[simp] theorem State.setRes_res (v : Word) : (s.setRes v).res = v := rfl
@[simp] theorem State.setRes_status (v : Word) : (s.setRes v).status = s.status := rfl
@[simp] theorem State.setRes_ilen (v : Word) : (s.setRes v).ilen = s.ilen := rfl
@[simp] theorem State.setRes_olen (v : Word) : (s.setRes v).olen = s.olen := rfl
@[simp] theorem State.setRes_ibuf (v : Word) : (s.setRes v).ibuf = s.ibuf := rfl
@[simp] theorem State.setRes_obuf (v : Word) : (s.setRes v).obuf = s.obuf := rfl
@[simp] theorem State.setRes_cfg (v : Word) : (s.setRes v).cfg = s.cfg := rfl
@[simp] theorem State.setRes_pending (v : Word) : (s.setRes v).pending = s.pending := rfl
@[simp] theorem State.setRes_replies (v : Word) : (s.setRes v).replies = s.replies := rfl

@[simp] theorem State.setArg0_crc (v : Word) : (s.setArg0 v).crc = s.crc := rfl
@[simp] theorem State.setArg0_s1 (v : Word) : (s.setArg0 v).s1 = s.s1 := rfl
@[simp] theorem State.setArg0_s2 (v : Word) : (s.setArg0 v).s2 = s.s2 := rfl
@[simp] theorem State.setArg0_arg0 (v : Word) : (s.setArg0 v).arg0 = v := rfl
@[simp] theorem State.setArg0_arg1 (v : Word) : (s.setArg0 v).arg1 = s.arg1 := rfl
@[simp] theorem State.setArg0_res (v : Word) : (s.setArg0 v).res = s.res := rfl
@[simp] theorem State.setArg0_status (v : Word) : (s.setArg0 v).status = s.status := rfl
@[simp] theorem State.setArg0_ilen (v : Word) : (s.setArg0 v).ilen = s.ilen := rfl
@[simp] theorem State.setArg0_olen (v : Word) : (s.setArg0 v).olen = s.olen := rfl
@[simp] theorem State.setArg0_ibuf (v : Word) : (s.setArg0 v).ibuf = s.ibuf := rfl
@[simp] theorem State.setArg0_obuf (v : Word) : (s.setArg0 v).obuf = s.obuf := rfl
@[simp] theorem State.setArg0_cfg (v : Word) : (s.setArg0 v).cfg = s.cfg := rfl
@[simp] theorem State.setArg0_pending (v : Word) : (s.setArg0 v).pending = s.pending := rfl
@[simp] theorem State.setArg0_replies (v : Word) : (s.setArg0 v).replies = s.replies := rfl

@[simp] theorem State.setArg1_crc (v : Word) : (s.setArg1 v).crc = s.crc := rfl
@[simp] theorem State.setArg1_s1 (v : Word) : (s.setArg1 v).s1 = s.s1 := rfl
@[simp] theorem State.setArg1_s2 (v : Word) : (s.setArg1 v).s2 = s.s2 := rfl
@[simp] theorem State.setArg1_arg0 (v : Word) : (s.setArg1 v).arg0 = s.arg0 := rfl
@[simp] theorem State.setArg1_arg1 (v : Word) : (s.setArg1 v).arg1 = v := rfl
@[simp] theorem State.setArg1_res (v : Word) : (s.setArg1 v).res = s.res := rfl
@[simp] theorem State.setArg1_status (v : Word) : (s.setArg1 v).status = s.status := rfl
@[simp] theorem State.setArg1_ilen (v : Word) : (s.setArg1 v).ilen = s.ilen := rfl
@[simp] theorem State.setArg1_olen (v : Word) : (s.setArg1 v).olen = s.olen := rfl
@[simp] theorem State.setArg1_ibuf (v : Word) : (s.setArg1 v).ibuf = s.ibuf := rfl
@[simp] theorem State.setArg1_obuf (v : Word) : (s.setArg1 v).obuf = s.obuf := rfl
@[simp] theorem State.setArg1_cfg (v : Word) : (s.setArg1 v).cfg = s.cfg := rfl
@[simp] theorem State.setArg1_pending (v : Word) : (s.setArg1 v).pending = s.pending := rfl
@[simp] theorem State.setArg1_replies (v : Word) : (s.setArg1 v).replies = s.replies := rfl

@[simp] theorem State.loadInput_crc (bs : List Byte) : (s.loadInput bs).crc = s.crc := rfl
@[simp] theorem State.loadInput_s1 (bs : List Byte) : (s.loadInput bs).s1 = s.s1 := rfl
@[simp] theorem State.loadInput_s2 (bs : List Byte) : (s.loadInput bs).s2 = s.s2 := rfl
@[simp] theorem State.loadInput_arg0 (bs : List Byte) : (s.loadInput bs).arg0 = s.arg0 := rfl
@[simp] theorem State.loadInput_arg1 (bs : List Byte) : (s.loadInput bs).arg1 = s.arg1 := rfl
@[simp] theorem State.loadInput_res (bs : List Byte) : (s.loadInput bs).res = s.res := rfl
@[simp] theorem State.loadInput_status (bs : List Byte) : (s.loadInput bs).status = s.status := rfl
@[simp] theorem State.loadInput_ilen (bs : List Byte) : (s.loadInput bs).ilen = bs.length := rfl
@[simp] theorem State.loadInput_olen (bs : List Byte) : (s.loadInput bs).olen = s.olen := rfl
@[simp] theorem State.loadInput_ibuf (bs : List Byte) : (s.loadInput bs).ibuf = Memory.ofBytes bs := rfl
@[simp] theorem State.loadInput_obuf (bs : List Byte) : (s.loadInput bs).obuf = s.obuf := rfl
@[simp] theorem State.loadInput_cfg (bs : List Byte) : (s.loadInput bs).cfg = s.cfg := rfl
@[simp] theorem State.loadInput_pending (bs : List Byte) : (s.loadInput bs).pending = s.pending := rfl
@[simp] theorem State.loadInput_replies (bs : List Byte) : (s.loadInput bs).replies = s.replies := rfl

@[simp] theorem State.commit_crc (out : List Byte) : (s.commit out).crc = s.crc := rfl
@[simp] theorem State.commit_s1 (out : List Byte) : (s.commit out).s1 = s.s1 := rfl
@[simp] theorem State.commit_s2 (out : List Byte) : (s.commit out).s2 = s.s2 := rfl
@[simp] theorem State.commit_arg0 (out : List Byte) : (s.commit out).arg0 = s.arg0 := rfl
@[simp] theorem State.commit_arg1 (out : List Byte) : (s.commit out).arg1 = s.arg1 := rfl
@[simp] theorem State.commit_res (out : List Byte) : (s.commit out).res = s.res := rfl
@[simp] theorem State.commit_status (out : List Byte) : (s.commit out).status = s.status := rfl
@[simp] theorem State.commit_ilen (out : List Byte) : (s.commit out).ilen = s.ilen := rfl
@[simp] theorem State.commit_olen (out : List Byte) : (s.commit out).olen = out.length := rfl
@[simp] theorem State.commit_ibuf (out : List Byte) : (s.commit out).ibuf = s.ibuf := rfl
@[simp] theorem State.commit_obuf (out : List Byte) : (s.commit out).obuf = Memory.ofBytes out := rfl
@[simp] theorem State.commit_cfg (out : List Byte) : (s.commit out).cfg = s.cfg := rfl
@[simp] theorem State.commit_pending (out : List Byte) : (s.commit out).pending = s.pending := rfl
@[simp] theorem State.commit_replies (out : List Byte) : (s.commit out).replies = s.replies := rfl

@[simp] theorem State.setPending_crc (ms : List HostMove) : (s.setPending ms).crc = s.crc := rfl
@[simp] theorem State.setPending_s1 (ms : List HostMove) : (s.setPending ms).s1 = s.s1 := rfl
@[simp] theorem State.setPending_s2 (ms : List HostMove) : (s.setPending ms).s2 = s.s2 := rfl
@[simp] theorem State.setPending_arg0 (ms : List HostMove) : (s.setPending ms).arg0 = s.arg0 := rfl
@[simp] theorem State.setPending_arg1 (ms : List HostMove) : (s.setPending ms).arg1 = s.arg1 := rfl
@[simp] theorem State.setPending_res (ms : List HostMove) : (s.setPending ms).res = s.res := rfl
@[simp] theorem State.setPending_status (ms : List HostMove) : (s.setPending ms).status = s.status := rfl
@[simp] theorem State.setPending_ilen (ms : List HostMove) : (s.setPending ms).ilen = s.ilen := rfl
@[simp] theorem State.setPending_olen (ms : List HostMove) : (s.setPending ms).olen = s.olen := rfl
@[simp] theorem State.setPending_ibuf (ms : List HostMove) : (s.setPending ms).ibuf = s.ibuf := rfl
@[simp] theorem State.setPending_obuf (ms : List HostMove) : (s.setPending ms).obuf = s.obuf := rfl
@[simp] theorem State.setPending_cfg (ms : List HostMove) : (s.setPending ms).cfg = s.cfg := rfl
@[simp] theorem State.setPending_pending (ms : List HostMove) : (s.setPending ms).pending = ms := rfl
@[simp] theorem State.setPending_replies (ms : List HostMove) : (s.setPending ms).replies = s.replies := rfl

@[simp] theorem State.reply_crc (r : HostReply) : (s.reply r).crc = s.crc := rfl
@[simp] theorem State.reply_s1 (r : HostReply) : (s.reply r).s1 = s.s1 := rfl
@[simp] theorem State.reply_s2 (r : HostReply) : (s.reply r).s2 = s.s2 := rfl
@[simp] theorem State.reply_arg0 (r : HostReply) : (s.reply r).arg0 = s.arg0 := rfl
@[simp] theorem State.reply_arg1 (r : HostReply) : (s.reply r).arg1 = s.arg1 := rfl
@[simp] theorem State.reply_res (r : HostReply) : (s.reply r).res = s.res := rfl
@[simp] theorem State.reply_status (r : HostReply) : (s.reply r).status = s.status := rfl
@[simp] theorem State.reply_ilen (r : HostReply) : (s.reply r).ilen = s.ilen := rfl
@[simp] theorem State.reply_olen (r : HostReply) : (s.reply r).olen = s.olen := rfl
@[simp] theorem State.reply_ibuf (r : HostReply) : (s.reply r).ibuf = s.ibuf := rfl
@[simp] theorem State.reply_obuf (r : HostReply) : (s.reply r).obuf = s.obuf := rfl
@[simp] theorem State.reply_cfg (r : HostReply) : (s.reply r).cfg = s.cfg := rfl
@[simp] theorem State.reply_pending (r : HostReply) : (s.reply r).pending = s.pending := rfl
@[simp] theorem State.reply_replies (r : HostReply) : (s.reply r).replies = r :: s.replies := rfl

@[simp] theorem State.takeFault_crc (f : FaultCode) : (s.takeFault f).crc = s.crc := rfl
@[simp] theorem State.takeFault_s1 (f : FaultCode) : (s.takeFault f).s1 = s.s1 := rfl
@[simp] theorem State.takeFault_s2 (f : FaultCode) : (s.takeFault f).s2 = s.s2 := rfl
@[simp] theorem State.takeFault_arg0 (f : FaultCode) : (s.takeFault f).arg0 = s.arg0 := rfl
@[simp] theorem State.takeFault_arg1 (f : FaultCode) : (s.takeFault f).arg1 = s.arg1 := rfl
@[simp] theorem State.takeFault_res (f : FaultCode) : (s.takeFault f).res = s.res := rfl
@[simp] theorem State.takeFault_status (f : FaultCode) : (s.takeFault f).status = f.code.setWidth 32 := rfl
@[simp] theorem State.takeFault_ilen (f : FaultCode) : (s.takeFault f).ilen = s.ilen := rfl
@[simp] theorem State.takeFault_olen (f : FaultCode) : (s.takeFault f).olen = s.olen := rfl
@[simp] theorem State.takeFault_ibuf (f : FaultCode) : (s.takeFault f).ibuf = s.ibuf := rfl
@[simp] theorem State.takeFault_obuf (f : FaultCode) : (s.takeFault f).obuf = s.obuf := rfl
@[simp] theorem State.takeFault_cfg (f : FaultCode) : (s.takeFault f).cfg = s.cfg := rfl
@[simp] theorem State.takeFault_pending (f : FaultCode) : (s.takeFault f).pending = s.pending := rfl
@[simp] theorem State.takeFault_replies (f : FaultCode) : (s.takeFault f).replies = s.replies := rfl

@[simp] theorem State.resetBlock_crc : s.resetBlock.crc = 0xFFFFFFFF := rfl
@[simp] theorem State.resetBlock_s1 : s.resetBlock.s1 = 1 := rfl
@[simp] theorem State.resetBlock_s2 : s.resetBlock.s2 = 0 := rfl
@[simp] theorem State.resetBlock_arg0 : s.resetBlock.arg0 = 0 := rfl
@[simp] theorem State.resetBlock_arg1 : s.resetBlock.arg1 = 0 := rfl
@[simp] theorem State.resetBlock_res : s.resetBlock.res = 0 := rfl
@[simp] theorem State.resetBlock_status : s.resetBlock.status = 0 := rfl
@[simp] theorem State.resetBlock_ilen : s.resetBlock.ilen = 0 := rfl
@[simp] theorem State.resetBlock_olen : s.resetBlock.olen = 0 := rfl
@[simp] theorem State.resetBlock_ibuf : s.resetBlock.ibuf = [] := rfl
@[simp] theorem State.resetBlock_obuf : s.resetBlock.obuf = [] := rfl
@[simp] theorem State.resetBlock_cfg : s.resetBlock.cfg = s.cfg := rfl
@[simp] theorem State.resetBlock_pending : s.resetBlock.pending = s.pending := rfl
@[simp] theorem State.resetBlock_replies : s.resetBlock.replies = s.replies := rfl

/-! What leaves the run as it is, and what leaves the block as it is (R20, R36). -/

@[simp] theorem State.setCrc_toRun (v : Word) : (s.setCrc v).toRun = s.toRun := rfl
@[simp] theorem State.setSums_toRun (v : Half × Half) : (s.setSums v).toRun = s.toRun := rfl
@[simp] theorem State.setRes_toRun (v : Word) : (s.setRes v).toRun = s.toRun := rfl
@[simp] theorem State.setArg0_toRun (v : Word) : (s.setArg0 v).toRun = s.toRun := rfl
@[simp] theorem State.setArg1_toRun (v : Word) : (s.setArg1 v).toRun = s.toRun := rfl
@[simp] theorem State.loadInput_toRun (bs : List Byte) : (s.loadInput bs).toRun = s.toRun := rfl
@[simp] theorem State.commit_toRun (out : List Byte) : (s.commit out).toRun = s.toRun := rfl
@[simp] theorem State.takeFault_toRun (f : FaultCode) : (s.takeFault f).toRun = s.toRun := rfl
@[simp] theorem State.resetBlock_toRun : s.resetBlock.toRun = s.toRun := rfl
@[simp] theorem State.resetBlock_toBlock : s.resetBlock.toBlock = Block.reset := rfl
@[simp] theorem State.setPending_toBlock (ms : List HostMove) :
    (s.setPending ms).toBlock = s.toBlock := rfl
@[simp] theorem State.reply_toBlock (r : HostReply) : (s.reply r).toBlock = s.toBlock := rfl

@[simp] theorem State.setCrc_code (v : Word) : (s.setCrc v).code = s.code := rfl
@[simp] theorem State.setCrc_input (v : Word) : (s.setCrc v).input = s.input := rfl
@[simp] theorem State.setCrc_output (v : Word) : (s.setCrc v).output = s.output := rfl
@[simp] theorem State.setSums_code (v : Half × Half) : (s.setSums v).code = s.code := rfl
@[simp] theorem State.setSums_input (v : Half × Half) : (s.setSums v).input = s.input := rfl
@[simp] theorem State.setSums_output (v : Half × Half) : (s.setSums v).output = s.output := rfl
@[simp] theorem State.setRes_code (v : Word) : (s.setRes v).code = s.code := rfl
@[simp] theorem State.setRes_input (v : Word) : (s.setRes v).input = s.input := rfl
@[simp] theorem State.setRes_output (v : Word) : (s.setRes v).output = s.output := rfl
@[simp] theorem State.setArg0_code (v : Word) : (s.setArg0 v).code = s.code := rfl
@[simp] theorem State.setArg0_input (v : Word) : (s.setArg0 v).input = s.input := rfl
@[simp] theorem State.setArg0_output (v : Word) : (s.setArg0 v).output = s.output := rfl
@[simp] theorem State.setArg1_code (v : Word) : (s.setArg1 v).code = s.code := rfl
@[simp] theorem State.setArg1_input (v : Word) : (s.setArg1 v).input = s.input := rfl
@[simp] theorem State.setArg1_output (v : Word) : (s.setArg1 v).output = s.output := rfl
@[simp] theorem State.loadInput_code (bs : List Byte) : (s.loadInput bs).code = s.code := rfl
@[simp] theorem State.loadInput_output (bs : List Byte) : (s.loadInput bs).output = s.output := rfl
@[simp] theorem State.commit_code (out : List Byte) : (s.commit out).code = s.code := rfl
@[simp] theorem State.commit_input (out : List Byte) : (s.commit out).input = s.input := rfl
@[simp] theorem State.setPending_code (ms : List HostMove) : (s.setPending ms).code = s.code := rfl
@[simp] theorem State.setPending_input (ms : List HostMove) : (s.setPending ms).input = s.input := rfl
@[simp] theorem State.setPending_output (ms : List HostMove) : (s.setPending ms).output = s.output := rfl
@[simp] theorem State.reply_code (r : HostReply) : (s.reply r).code = s.code := rfl
@[simp] theorem State.reply_input (r : HostReply) : (s.reply r).input = s.input := rfl
@[simp] theorem State.reply_output (r : HostReply) : (s.reply r).output = s.output := rfl
@[simp] theorem State.takeFault_input (f : FaultCode) : (s.takeFault f).input = s.input := rfl
@[simp] theorem State.takeFault_output (f : FaultCode) : (s.takeFault f).output = s.output := rfl

@[simp] theorem State.setCrc_inputByte (v : Word) (a : Nat) :
    (s.setCrc v).inputByte a = s.inputByte a := rfl
@[simp] theorem State.setCrc_outputByte (v : Word) (a : Nat) :
    (s.setCrc v).outputByte a = s.outputByte a := rfl
@[simp] theorem State.setSums_inputByte (v : Half × Half) (a : Nat) :
    (s.setSums v).inputByte a = s.inputByte a := rfl
@[simp] theorem State.setSums_outputByte (v : Half × Half) (a : Nat) :
    (s.setSums v).outputByte a = s.outputByte a := rfl
@[simp] theorem State.setRes_inputByte (v : Word) (a : Nat) :
    (s.setRes v).inputByte a = s.inputByte a := rfl
@[simp] theorem State.setRes_outputByte (v : Word) (a : Nat) :
    (s.setRes v).outputByte a = s.outputByte a := rfl
@[simp] theorem State.setArg0_inputByte (v : Word) (a : Nat) :
    (s.setArg0 v).inputByte a = s.inputByte a := rfl
@[simp] theorem State.setArg0_outputByte (v : Word) (a : Nat) :
    (s.setArg0 v).outputByte a = s.outputByte a := rfl
@[simp] theorem State.setArg1_inputByte (v : Word) (a : Nat) :
    (s.setArg1 v).inputByte a = s.inputByte a := rfl
@[simp] theorem State.setArg1_outputByte (v : Word) (a : Nat) :
    (s.setArg1 v).outputByte a = s.outputByte a := rfl
@[simp] theorem State.loadInput_outputByte (bs : List Byte) (a : Nat) :
    (s.loadInput bs).outputByte a = s.outputByte a := rfl
@[simp] theorem State.commit_inputByte (out : List Byte) (a : Nat) :
    (s.commit out).inputByte a = s.inputByte a := rfl
@[simp] theorem State.setPending_inputByte (ms : List HostMove) (a : Nat) :
    (s.setPending ms).inputByte a = s.inputByte a := rfl
@[simp] theorem State.setPending_outputByte (ms : List HostMove) (a : Nat) :
    (s.setPending ms).outputByte a = s.outputByte a := rfl
@[simp] theorem State.reply_inputByte (r : HostReply) (a : Nat) :
    (s.reply r).inputByte a = s.inputByte a := rfl
@[simp] theorem State.reply_outputByte (r : HostReply) (a : Nat) :
    (s.reply r).outputByte a = s.outputByte a := rfl
@[simp] theorem State.takeFault_inputByte (f : FaultCode) (a : Nat) :
    (s.takeFault f).inputByte a = s.inputByte a := rfl
@[simp] theorem State.takeFault_outputByte (f : FaultCode) (a : Nat) :
    (s.takeFault f).outputByte a = s.outputByte a := rfl

/-- R30: a fault leaves bits 31:4 of STATUS zero. -/
@[simp] theorem State.takeFault_status_upper (f : FaultCode) :
    (s.takeFault f).status.extractLsb' 4 28 = 0#28 := by
  cases f <;> simp [FaultCode.code]

/-- R230, R221: after a fault CODE is the fault's code. -/
@[simp] theorem State.takeFault_code (f : FaultCode) : (s.takeFault f).code = f.code := by
  cases f <;> rfl

@[simp] theorem State.resetBlock_code : s.resetBlock.code = 0#4 := rfl

/-- R221: no fault has the code that means none. -/
@[simp] theorem FaultCode.code_ne_zero (f : FaultCode) : f.code ≠ 0#4 := by cases f <;> decide

/-- The halt check reads CODE alone (R30). -/
theorem State.halted_eq_false_iff : s.halted = false ↔ s.code = 0#4 := by
  simp [State.halted]

theorem State.halted_eq_true_iff : s.halted = true ↔ s.code ≠ 0#4 := by
  simp [State.halted]

end Sys2Proof.Machine
end

