-- ==== Sys2Proof/Laws/Memory.lean ====
section
/-!
SUPPORT. The buffer operations (`20_memory.md` R50, R52, R53): what a buffer made of a byte sequence
reads as, that it has the canonical form, and that a buffer whose valid bytes are the first n can be
read whole.
-/

namespace Sys2Proof.Machine

@[simp] theorem Memory.ofBytesFrom_addresses (bs : List Byte) (i : Nat) :
    (Memory.ofBytesFrom i bs).map Prod.fst = List.range' i bs.length := by
  induction bs generalizing i with
  | nil => rfl
  | cons b bs ih => simp [Memory.ofBytesFrom, ih, List.range'_succ]

/-- A replaced buffer lists exactly the indices below its length (R29). -/
@[simp] theorem Memory.ofBytes_covers (bs : List Byte) : (Memory.ofBytes bs).Covers bs.length := by
  simp [Memory.Covers, Memory.ofBytes, List.range_eq_range']

/-- A buffer of which the first n bytes are valid is in canonical form. -/
theorem Memory.wf_of_covers {m : Memory} {n : Nat} (h : m.Covers n) : m.wf := by
  simpa [Memory.wf, h] using List.pairwise_lt_range

/-- Every operation that writes a buffer leaves it in canonical form. -/
theorem Memory.ofBytes_wf (bs : List Byte) : (Memory.ofBytes bs).wf :=
  Memory.wf_of_covers (Memory.ofBytes_covers bs)

theorem State.reset_ibuf_wf : State.reset.ibuf.wf := List.Pairwise.nil

theorem State.reset_obuf_wf : State.reset.obuf.wf := List.Pairwise.nil

theorem Memory.ofBytesFrom_read (bs : List Byte) (i k : Nat) :
    (Memory.ofBytesFrom i bs).read k = if k < i then none else bs[k - i]? := by
  induction bs generalizing i with
  | nil => simp [Memory.ofBytesFrom, Memory.read, Memory.unlisted]
  | cons b bs ih =>
    simp only [Memory.ofBytesFrom, Memory.read, ih]
    rcases Nat.lt_trichotomy k i with h | h | h
    · simp [h, Nat.ne_of_gt h, Nat.lt_succ_of_lt h]
    · simp [h]
    · have : k - i = (k - (i + 1)) + 1 := by omega
      simp [Nat.ne_of_lt h, Nat.not_lt_of_gt h, Nat.not_lt_of_ge h, this]

/-- A replaced buffer reads as its bytes, and holds no value beyond them (R29). -/
@[simp] theorem Memory.ofBytes_read (bs : List Byte) (k : Nat) :
    (Memory.ofBytes bs).read k = bs[k]? := by
  simp [Memory.ofBytes, Memory.ofBytesFrom_read]

theorem Memory.ofBytesFrom_readSeq (bs : List Byte) (i : Nat) :
    (Memory.ofBytesFrom i bs).readSeq i bs.length = some bs := by
  induction bs generalizing i with
  | nil => rfl
  | cons b bs ih => simp [Memory.ofBytesFrom, Memory.readSeq, ih]

/-- A replaced buffer reads back whole. -/
@[simp] theorem Memory.ofBytes_readSeq (bs : List Byte) :
    (Memory.ofBytes bs).readSeq 0 bs.length = some bs :=
  Memory.ofBytesFrom_readSeq bs 0

/-- A sequence read has the length asked for. -/
theorem Memory.readSeq_length {m : Memory} {i n : Nat} {bs : List Byte}
    (h : m.readSeq i n = some bs) : bs.length = n := by
  induction m generalizing i n bs with
  | nil => cases n with
    | zero => simp_all [Memory.readSeq]
    | succ n => simp [Memory.readSeq] at h
  | cons c m ih =>
    cases n with
    | zero => simp_all [Memory.readSeq]
    | succ n =>
      simp only [Memory.readSeq] at h
      split at h
      · obtain ⟨bs', h', rfl⟩ := Option.map_eq_some_iff.mp h
        simp [ih h']
      · split at h
        · exact ih h
        · cases h

/-- A sequence read is byte by byte what single reads give. -/
theorem Memory.readSeq_read {m : Memory} {i n : Nat} {bs : List Byte}
    (h : m.readSeq i n = some bs) (k : Nat) (hk : k < n) : m.read (i + k) = bs[k]? := by
  induction m generalizing i n bs k with
  | nil => cases n <;> simp_all [Memory.readSeq]
  | cons c m ih =>
    cases n with
    | zero => omega
    | succ n =>
      simp only [Memory.readSeq] at h
      split at h
      · rename_i hc
        obtain ⟨bs', h', rfl⟩ := Option.map_eq_some_iff.mp h
        cases k with
        | zero => simp [Memory.read, hc]
        | succ k =>
          have hne : c.1 ≠ i + (k + 1) := by omega
          simp only [Memory.read, if_neg hne, List.getElem?_cons_succ, ← ih h' k (by omega)]
          congr 1
          omega
      · split at h
        · have hne : c.1 ≠ i + k := by omega
          simpa only [Memory.read, if_neg hne] using ih h k hk
        · cases h

theorem Memory.eq_ofBytesFrom {m : Memory} {i n : Nat} (h : m.map Prod.fst = List.range' i n) :
    ∃ bs : List Byte, bs.length = n ∧ m = Memory.ofBytesFrom i bs := by
  induction m generalizing i n with
  | nil => exact ⟨[], by simpa using congrArg List.length h, rfl⟩
  | cons c m ih =>
    cases n with
    | zero => simp at h
    | succ n =>
      simp only [List.map_cons, List.range'_succ, List.cons.injEq] at h
      obtain ⟨bs, hl, rfl⟩ := ih h.2
      exact ⟨c.2 :: bs, by simp [hl], by simp [Memory.ofBytesFrom, ← h.1]⟩

/-- A buffer of which exactly the first n bytes are valid is a byte sequence of length n. -/
theorem Memory.covers_iff {m : Memory} {n : Nat} :
    m.Covers n ↔ ∃ bs : List Byte, bs.length = n ∧ m = Memory.ofBytes bs := by
  constructor
  · intro h
    exact Memory.eq_ofBytesFrom (by rw [← List.range_eq_range']; exact h)
  · rintro ⟨bs, rfl, rfl⟩
    exact Memory.ofBytes_covers bs

/-- In a state that meets the invariant's clause on buffers the whole input can be read. -/
theorem State.input_of_covers {s : State} (h : s.ibuf.Covers s.ilen) :
    ∃ data, s.input = some data ∧ data.length = s.ilen ∧ s.ibuf = Memory.ofBytes data := by
  obtain ⟨bs, hl, hm⟩ := Memory.covers_iff.mp h
  exact ⟨bs, by simp [State.input, hm, ← hl], hl, hm⟩

/-- In a state that meets the invariant's clause on buffers the whole output can be read. -/
theorem State.output_of_covers {s : State} (h : s.obuf.Covers s.olen) :
    ∃ out, s.output = some out ∧ out.length = s.olen ∧ s.obuf = Memory.ofBytes out := by
  obtain ⟨bs, hl, hm⟩ := Memory.covers_iff.mp h
  exact ⟨bs, by simp [State.output, hm, ← hl], hl, hm⟩

theorem State.input_length {s : State} {data : List Byte} (h : s.input = some data) :
    data.length = s.ilen :=
  Memory.readSeq_length h

theorem State.output_length {s : State} {out : List Byte} (h : s.output = some out) :
    out.length = s.olen :=
  Memory.readSeq_length h

/-- R52: after a load the input is what was loaded. -/
@[simp] theorem State.loadInput_input (s : State) (bs : List Byte) :
    (s.loadInput bs).input = some bs := by
  simp [State.input]

/-- R12: after Commit the output is what was committed. -/
@[simp] theorem State.commit_output (s : State) (out : List Byte) :
    (s.commit out).output = some out := by
  simp [State.output]

@[simp] theorem State.resetBlock_input (s : State) : s.resetBlock.input = some [] := rfl

@[simp] theorem State.resetBlock_output (s : State) : s.resetBlock.output = some [] := rfl

end Sys2Proof.Machine
end

