-- ==== Sys2Proof/Laws/Ops.lean ====
section
/-!
SUPPORT. One lemma per shared operation of the command template (`40_crc32.md` R120): everything a next
state can be.
-/

namespace Sys2Proof.Machine

/-- R231: a halted block answers the same state. -/
theorem unlessHalted_of_halted {s : State} {k : Result} (h : s.code ≠ 0#4) :
    unlessHalted s k = .next s := by
  simp [unlessHalted, State.halted, h]

@[simp] theorem unlessHalted_of_running {s : State} {k : Result} (h : s.code = 0#4) :
    unlessHalted s k = k := by
  simp [unlessHalted, State.halted, h]

/-- The halt check: halted, and nothing happens; or running, and the rest of the command decides. -/
theorem unlessHalted_next {s t : State} {k : Result} (h : unlessHalted s k = .next t) :
    (s.code ≠ 0#4 ∧ t = s) ∨ (s.code = 0#4 ∧ k = .next t) := by
  by_cases hs : s.code = 0#4
  · exact .inr ⟨hs, by simpa [hs] using h⟩
  · rw [unlessHalted_of_halted hs] at h
    exact .inl ⟨hs, (Host.Outcome.next.inj h).symm⟩

@[simp] theorem check_of_bad {s : State} {f : FaultCode} {k : Result} :
    check true f s k = .next (s.takeFault f) := rfl

@[simp] theorem check_of_good {s : State} {f : FaultCode} {k : Result} :
    check false f s k = k := rfl

/-- A check: it fails and its fault is taken, or it passes and the rest of the command decides. -/
theorem check_next {bad : Bool} {s t : State} {f : FaultCode} {k : Result}
    (h : check bad f s k = .next t) :
    (bad = true ∧ t = s.takeFault f) ∨ (bad = false ∧ k = .next t) := by
  cases bad with
  | true => exact .inl ⟨rfl, (Host.Outcome.next.inj h).symm⟩
  | false => exact .inr ⟨rfl, h⟩

@[simp] theorem withInput_of_some {s : State} {data : List Byte} {k : List Byte → Result}
    (h : s.input = some data) : withInput s k = k data := by
  simp [withInput, h]

/-- Reading the input: all of it holds a value, and the rest of the command decides. -/
theorem withInput_next {s t : State} {k : List Byte → Result} (h : withInput s k = .next t) :
    ∃ data, s.input = some data ∧ k data = .next t := by
  cases hd : s.input with
  | none => simp [withInput, hd] at h
  | some data => exact ⟨data, rfl, by simpa [hd] using h⟩

/-- R228: the overflow check compares the output's length with OBUF_CAP. -/
@[simp] theorem State.overflows_eq_false {s : State} {n : Nat} :
    s.overflows n = false ↔ n ≤ s.cfg.obufCap := by
  simp [State.overflows]

@[simp] theorem State.overflows_eq_true {s : State} {n : Nat} :
    s.overflows n = true ↔ s.cfg.obufCap < n := by
  simp [State.overflows]

@[simp] theorem tooLongForChunk_eq_false {n : Nat} :
    tooLongForChunk n = false ↔ n ≤ 2 ^ 32 - 1 := by
  simp [tooLongForChunk]

@[simp] theorem tooLongForChunk_eq_true {n : Nat} :
    tooLongForChunk n = true ↔ 2 ^ 32 - 1 < n := by
  simp [tooLongForChunk]

end Sys2Proof.Machine
end

