-- ==== Sys2Proof/Laws/Commands.lean ====
section
/-!
SUPPORT. One inversion lemma per command: everything the state after it can be. Each disjunction begins
with the halted case (R231), then the command's faults in order, then its completion.
-/

namespace Sys2Proof.Machine

variable {s t : State}

theorem execCrcInit_next (h : execCrcInit s = .next t) :
    (s.code ≠ 0#4 ∧ t = s) ∨ (s.code = 0#4 ∧ t = s.setCrc crcStart) := by
  rcases unlessHalted_next h with h | ⟨hs, h⟩
  · exact .inl h
  · exact .inr ⟨hs, (Host.Outcome.next.inj h).symm⟩

theorem execCrcByte_next {b : Byte} (h : execCrcByte b s = .next t) :
    (s.code ≠ 0#4 ∧ t = s) ∨ (s.code = 0#4 ∧ t = s.setCrc (crcStep s.crc b)) := by
  rcases unlessHalted_next h with h | ⟨hs, h⟩
  · exact .inl h
  · exact .inr ⟨hs, (Host.Outcome.next.inj h).symm⟩

theorem execCrcUpd_next (h : execCrcUpd s = .next t) :
    (s.code ≠ 0#4 ∧ t = s) ∨
    (s.code = 0#4 ∧ ∃ data, s.input = some data ∧ t = s.setCrc (crcRun s.crc data)) := by
  rcases unlessHalted_next h with h | ⟨hs, h⟩
  · exact .inl h
  · obtain ⟨data, hd, h⟩ := withInput_next h
    exact .inr ⟨hs, data, hd, (Host.Outcome.next.inj h).symm⟩

theorem execCrcRead_next (h : execCrcRead s = .next t) :
    (s.code ≠ 0#4 ∧ t = s) ∨ (s.code = 0#4 ∧ t = s.setRes (crcFinish s.crc)) := by
  rcases unlessHalted_next h with h | ⟨hs, h⟩
  · exact .inl h
  · exact .inr ⟨hs, (Host.Outcome.next.inj h).symm⟩

theorem execCrc32_next (h : execCrc32 s = .next t) :
    (s.code ≠ 0#4 ∧ t = s) ∨
    (s.code = 0#4 ∧ ∃ data, s.input = some data ∧
      t = (s.setCrc (crcRun crcStart data)).setRes (crcFinish (crcRun crcStart data))) := by
  rcases unlessHalted_next h with h | ⟨hs, h⟩
  · exact .inl h
  · obtain ⟨data, hd, h⟩ := withInput_next h
    exact .inr ⟨hs, data, hd, (Host.Outcome.next.inj h).symm⟩

theorem execAdlInit_next (h : execAdlInit s = .next t) :
    (s.code ≠ 0#4 ∧ t = s) ∨ (s.code = 0#4 ∧ t = s.setSums adlerStart) := by
  rcases unlessHalted_next h with h | ⟨hs, h⟩
  · exact .inl h
  · exact .inr ⟨hs, (Host.Outcome.next.inj h).symm⟩

theorem execAdlByte_next {b : Byte} (h : execAdlByte b s = .next t) :
    (s.code ≠ 0#4 ∧ t = s) ∨ (s.code = 0#4 ∧ t = s.setSums (adlStep (s.s1, s.s2) b)) := by
  rcases unlessHalted_next h with h | ⟨hs, h⟩
  · exact .inl h
  · exact .inr ⟨hs, (Host.Outcome.next.inj h).symm⟩

theorem execAdlUpd_next (h : execAdlUpd s = .next t) :
    (s.code ≠ 0#4 ∧ t = s) ∨
    (s.code = 0#4 ∧ ∃ data, s.input = some data ∧ t = s.setSums (adlRun (s.s1, s.s2) data)) := by
  rcases unlessHalted_next h with h | ⟨hs, h⟩
  · exact .inl h
  · obtain ⟨data, hd, h⟩ := withInput_next h
    exact .inr ⟨hs, data, hd, (Host.Outcome.next.inj h).symm⟩

theorem execAdlRead_next (h : execAdlRead s = .next t) :
    (s.code ≠ 0#4 ∧ t = s) ∨ (s.code = 0#4 ∧ t = s.setRes (adlFinish (s.s1, s.s2))) := by
  rcases unlessHalted_next h with h | ⟨hs, h⟩
  · exact .inl h
  · exact .inr ⟨hs, (Host.Outcome.next.inj h).symm⟩

theorem execAdler32_next (h : execAdler32 s = .next t) :
    (s.code ≠ 0#4 ∧ t = s) ∨
    (s.code = 0#4 ∧ ∃ data, s.input = some data ∧
      t = (s.setSums (adlRun adlerStart data)).setRes (adlFinish (adlRun adlerStart data))) := by
  rcases unlessHalted_next h with h | ⟨hs, h⟩
  · exact .inl h
  · obtain ⟨data, hd, h⟩ := withInput_next h
    exact .inr ⟨hs, data, hd, (Host.Outcome.next.inj h).symm⟩

theorem execDflBlock_next {f : Bool} (h : execDflBlock f s = .next t) :
    (s.code ≠ 0#4 ∧ t = s) ∨
    (s.code = 0#4 ∧ 65535 < s.ilen ∧ t = s.takeFault .blockTooLarge) ∨
    (s.code = 0#4 ∧ s.ilen ≤ 65535 ∧ s.cfg.obufCap < storedLength s.ilen ∧
      t = s.takeFault .outputOverflow) ∨
    (s.code = 0#4 ∧ s.ilen ≤ 65535 ∧ storedLength s.ilen ≤ s.cfg.obufCap ∧
      ∃ data, s.input = some data ∧ t = s.commit (storedBlock f data)) := by
  rcases unlessHalted_next h with h | ⟨hs, h⟩
  · exact .inl h
  · rcases check_next h with ⟨hb, rfl⟩ | ⟨hb, h⟩
    · exact .inr (.inl ⟨hs, of_decide_eq_true hb, rfl⟩)
    · have hl : s.ilen ≤ 65535 := Nat.not_lt.mp (of_decide_eq_false hb)
      rcases check_next h with ⟨ho, rfl⟩ | ⟨ho, h⟩
      · exact .inr (.inr (.inl ⟨hs, hl, by simpa using ho, rfl⟩))
      · obtain ⟨data, hd, h⟩ := withInput_next h
        exact .inr (.inr (.inr
          ⟨hs, hl, by simpa using ho, data, hd, (Host.Outcome.next.inj h).symm⟩))

theorem execDflEncode_next (h : execDflEncode s = .next t) :
    (s.code ≠ 0#4 ∧ t = s) ∨
    (s.code = 0#4 ∧ s.cfg.obufCap < deflateLength s.ilen ∧ t = s.takeFault .outputOverflow) ∨
    (s.code = 0#4 ∧ deflateLength s.ilen ≤ s.cfg.obufCap ∧
      ∃ data, s.input = some data ∧ t = s.commit (deflateStored data)) := by
  rcases unlessHalted_next h with h | ⟨hs, h⟩
  · exact .inl h
  · rcases check_next h with ⟨ho, rfl⟩ | ⟨ho, h⟩
    · exact .inr (.inl ⟨hs, by simpa using ho, rfl⟩)
    · obtain ⟨data, hd, h⟩ := withInput_next h
      exact .inr (.inr ⟨hs, by simpa using ho, data, hd, (Host.Outcome.next.inj h).symm⟩)

theorem execZlibWrap_next (h : execZlibWrap s = .next t) :
    (s.code ≠ 0#4 ∧ t = s) ∨
    (s.code = 0#4 ∧ s.cfg.obufCap < zlibLength s.ilen ∧ t = s.takeFault .outputOverflow) ∨
    (s.code = 0#4 ∧ zlibLength s.ilen ≤ s.cfg.obufCap ∧
      ∃ data, s.input = some data ∧
        t = (s.setSums (adlRun adlerStart data)).commit (zlibWrap data)) := by
  rcases unlessHalted_next h with h | ⟨hs, h⟩
  · exact .inl h
  · rcases check_next h with ⟨ho, rfl⟩ | ⟨ho, h⟩
    · exact .inr (.inl ⟨hs, by simpa using ho, rfl⟩)
    · obtain ⟨data, hd, h⟩ := withInput_next h
      exact .inr (.inr ⟨hs, by simpa using ho, data, hd, (Host.Outcome.next.inj h).symm⟩)

theorem execPngChunk_next (h : execPngChunk s = .next t) :
    (s.code ≠ 0#4 ∧ t = s) ∨
    (s.code = 0#4 ∧ 2 ^ 32 - 1 < s.ilen ∧ t = s.takeFault .chunkTooLong) ∨
    (s.code = 0#4 ∧ s.ilen ≤ 2 ^ 32 - 1 ∧ s.cfg.obufCap < chunkLength s.ilen ∧
      t = s.takeFault .outputOverflow) ∨
    (s.code = 0#4 ∧ s.ilen ≤ 2 ^ 32 - 1 ∧ chunkLength s.ilen ≤ s.cfg.obufCap ∧
      ∃ data, s.input = some data ∧
        t = (s.setCrc (crcRun crcStart (s.chunkType ++ data))).commit (pngChunk s.chunkType data)) := by
  rcases unlessHalted_next h with h | ⟨hs, h⟩
  · exact .inl h
  · rcases check_next h with ⟨hb, rfl⟩ | ⟨hb, h⟩
    · exact .inr (.inl ⟨hs, tooLongForChunk_eq_true.mp hb, rfl⟩)
    · have hl := tooLongForChunk_eq_false.mp hb
      rcases check_next h with ⟨ho, rfl⟩ | ⟨ho, h⟩
      · exact .inr (.inr (.inl ⟨hs, hl, by simpa using ho, rfl⟩))
      · obtain ⟨data, hd, h⟩ := withInput_next h
        exact .inr (.inr (.inr
          ⟨hs, hl, by simpa using ho, data, hd, (Host.Outcome.next.inj h).symm⟩))

theorem State.sizeMismatch_eq_true :
    s.sizeMismatch = true ↔ s.ilen ≠ 3 * s.arg0.toNat * s.arg1.toNat := by
  simp [State.sizeMismatch, bytesPerPixel, State.width, State.height]

theorem State.sizeMismatch_eq_false :
    s.sizeMismatch = false ↔ s.ilen = 3 * s.arg0.toNat * s.arg1.toNat := by
  simp [State.sizeMismatch, bytesPerPixel, State.width, State.height]

theorem execPngEncode_next (h : execPngEncode s = .next t) :
    (s.code ≠ 0#4 ∧ t = s) ∨
    (s.code = 0#4 ∧ s.ilen ≠ 3 * s.arg0.toNat * s.arg1.toNat ∧
      t = s.takeFault .inputSizeMismatch) ∨
    (s.code = 0#4 ∧ s.ilen = 3 * s.arg0.toNat * s.arg1.toNat ∧
      2 ^ 32 - 1 < idatLength s.arg0.toNat s.arg1.toNat ∧ t = s.takeFault .chunkTooLong) ∨
    (s.code = 0#4 ∧ s.ilen = 3 * s.arg0.toNat * s.arg1.toNat ∧
      idatLength s.arg0.toNat s.arg1.toNat ≤ 2 ^ 32 - 1 ∧
      s.cfg.obufCap < pngLength s.arg0.toNat s.arg1.toNat ∧ t = s.takeFault .outputOverflow) ∨
    (s.code = 0#4 ∧ s.ilen = 3 * s.arg0.toNat * s.arg1.toNat ∧
      idatLength s.arg0.toNat s.arg1.toNat ≤ 2 ^ 32 - 1 ∧
      pngLength s.arg0.toNat s.arg1.toNat ≤ s.cfg.obufCap ∧
      ∃ data, s.input = some data ∧
        t = ((s.setSums (adlRun adlerStart (scanlines s.arg0.toNat s.arg1.toNat data))).setCrc
          (crcRun crcStart typeIEND)).commit (pngEncode s.arg0 s.arg1 data)) := by
  rcases unlessHalted_next h with h | ⟨hs, h⟩
  · exact .inl h
  · rcases check_next h with ⟨hm, rfl⟩ | ⟨hm, h⟩
    · exact .inr (.inl ⟨hs, State.sizeMismatch_eq_true.mp hm, rfl⟩)
    · have hm := State.sizeMismatch_eq_false.mp hm
      rcases check_next h with ⟨hb, rfl⟩ | ⟨hb, h⟩
      · exact .inr (.inr (.inl ⟨hs, hm, tooLongForChunk_eq_true.mp hb, rfl⟩))
      · have hl := tooLongForChunk_eq_false.mp hb
        rcases check_next h with ⟨ho, rfl⟩ | ⟨ho, h⟩
        · exact .inr (.inr (.inr (.inl ⟨hs, hm, hl, State.overflows_eq_true.mp ho, rfl⟩)))
        · obtain ⟨data, hd, h⟩ := withInput_next h
          exact .inr (.inr (.inr (.inr
            ⟨hs, hm, hl, State.overflows_eq_false.mp ho, data, hd, (Host.Outcome.next.inj h).symm⟩)))

end Sys2Proof.Machine
end

