-- ==== Sys2Proof/Laws/Encoding.lean ====
section
/-!
SUPPORT. The fields of a command word (`30_encoding.md` R80) and what the two format checks of the
decoder answer (R81): one lemma each, so that no proof about decoding unfolds them.
-/

namespace Sys2Proof

/-- R80: the operation code of a word put together from its two fields. -/
theorem opField_of_fields (op imm : Byte) :
    opField (op.setWidth 16 <<< 8 ||| imm.setWidth 16) = op := by
  apply BitVec.eq_of_getLsbD_eq
  intro k hk
  have hw : 8 + k < 16 := by omega
  simp [opField, hw, hk]

/-- R80: the immediate of a word put together from its two fields. -/
theorem immField_of_fields (op imm : Byte) :
    immField (op.setWidth 16 <<< 8 ||| imm.setWidth 16) = imm := by
  apply BitVec.eq_of_getLsbD_eq
  intro k hk
  have hk' : k < 16 := by omega
  simp [immField, hk, hk']

@[simp] theorem opField_encode (i : Instr) : opField (encode i) = opcode i := opField_of_fields _ _

@[simp] theorem immField_encode (i : Instr) : immField (encode i) = i.imm8 := immField_of_fields _ _

/-- R81: a format N word is its command exactly when the immediate is 0. -/
theorem decodeNone_eq_ok {imm : Byte} {i j : Instr} :
    decodeNone imm i = .ok j ↔ imm = 0 ∧ i = j := by
  by_cases h : imm = 0#8 <;> simp [decodeNone, h]

/-- R81: a format F immediate whose bits 7:1 are 0 is its flag bit. -/
theorem flag_immediate (imm : Byte) :
    imm.extractLsb' 1 7 = 0 → imm = if imm.getLsbD 0 then 1 else 0 := by
  revert imm
  decide +kernel

/-- R81: a format F word is its command exactly when bits 7:1 of the immediate are 0. -/
theorem decodeFlag_eq_ok {imm : Byte} {mk : Bool → Instr} {j : Instr} :
    decodeFlag imm mk = .ok j ↔ imm.extractLsb' 1 7 = 0 ∧ mk (imm.getLsbD 0) = j := by
  unfold decodeFlag
  split <;> simp_all

end Sys2Proof
end

