-- ==== Sys2Proof/Laws/Invariant.lean ====
section
/-!
SUPPORT. What each shared operation does to the invariant of `10_state.md` R39: the register writes that
do not touch it, the ones that need a fact about what is written, and the reset. Prefer these to unfolding
`State.Inv`.
-/

namespace Sys2Proof.Machine

variable {s : State}

theorem State.Inv.setCrc (h : s.Inv) (v : Word) : (s.setCrc v).Inv := h
theorem State.Inv.setRes (h : s.Inv) (v : Word) : (s.setRes v).Inv := h
theorem State.Inv.setArg0 (h : s.Inv) (v : Word) : (s.setArg0 v).Inv := h
theorem State.Inv.setArg1 (h : s.Inv) (v : Word) : (s.setArg1 v).Inv := h
theorem State.Inv.setPending (h : s.Inv) (ms : List HostMove) : (s.setPending ms).Inv := h
theorem State.Inv.reply (h : s.Inv) (r : HostReply) : (s.reply r).Inv := h

/-- R32, R33: sums written reduced. -/
theorem State.Inv.setSums (h : s.Inv) {v : Half × Half}
    (hv : v.1.toNat < 65521 ∧ v.2.toNat < 65521) : (s.setSums v).Inv := ⟨hv, h.2⟩

/-- R52: an input within IBUF_CAP. -/
theorem State.Inv.loadInput (h : s.Inv) {bs : List Byte} (hl : bs.length ≤ s.cfg.ibufCap) :
    (s.loadInput bs).Inv :=
  ⟨h.1, ⟨hl, h.2.1.2⟩, h.2.2.1, Memory.ofBytes_covers bs, h.2.2.2.2⟩

/-- R54: an output within OBUF_CAP. -/
theorem State.Inv.commit (h : s.Inv) {out : List Byte} (hl : out.length ≤ s.cfg.obufCap) :
    (s.commit out).Inv :=
  ⟨h.1, ⟨h.2.1.1, hl⟩, h.2.2.1, h.2.2.2.1, Memory.ofBytes_covers out⟩

/-- R230: a fault's code is legal. -/
theorem State.Inv.takeFault (h : s.Inv) (f : FaultCode) : (s.takeFault f).Inv := by
  refine ⟨h.1, h.2.1, ⟨s.takeFault_status_upper f, ?_⟩, h.2.2.2⟩
  rw [State.takeFault_code]
  cases f <;> decide

end Sys2Proof.Machine
end

