-- ==== Sys2Proof/Laws/PerInstr.lean ====
section
/-!
SUPPORT. Statements made per command, one lemma per constructor of `Instr`. Family TableRow: the
command's word is selected by a row of the opcode map with its mnemonic and format, and the command is
well formed (`30_encoding.md` R81, R83, R86).
-/

namespace Sys2Proof.Laws.TableRow

/-- The opcode map has a row for the command, which selects its word. -/
def Statement (i : Instr) : Prop :=
  i.wellFormed = true ∧
    ∃ r ∈ opcodeTable, r.mnemonic = i.mnemonic ∧ r.format = i.format ∧ r.selects (encode i) = true

/-- The immediate does not reach the high byte of the word. -/
theorem high_byte (op : Half) (b : Byte) : (op ||| b.setWidth 16) &&& 0xFF00#16 = op &&& 0xFF00#16 := by
  have hm : 0xFF00#16 = BitVec.allOnes 16 <<< 8 := by decide
  rw [hm]
  ext k hk
  rcases Nat.lt_or_ge k 8 with hk8 | hk8
  · simp only [BitVec.getElem_and, BitVec.getElem_shiftLeft, decide_eq_true hk8, Bool.not_true,
      Bool.false_and, Bool.and_false]
  · simp [BitVec.getLsbD_of_ge b k hk8]

theorem crcInit : Statement .crcInit := ⟨by decide, opcodeTable[0], by decide⟩
theorem crcByte (b : Byte) : Statement (.crcByte b) := by
  refine ⟨rfl, opcodeTable[1], by decide, rfl, rfl, ?_⟩
  simpa [OpcodeRow.selects, opcodeTable, encode, opcode, Instr.imm8] using
    high_byte 0x1100 b
theorem crcUpd : Statement .crcUpd := ⟨by decide, opcodeTable[2], by decide⟩
theorem crcRead : Statement .crcRead := ⟨by decide, opcodeTable[3], by decide⟩
theorem crc32 : Statement .crc32 := ⟨by decide, opcodeTable[4], by decide⟩
theorem adlInit : Statement .adlInit := ⟨by decide, opcodeTable[5], by decide⟩
theorem adlByte (b : Byte) : Statement (.adlByte b) := by
  refine ⟨rfl, opcodeTable[6], by decide, rfl, rfl, ?_⟩
  simpa [OpcodeRow.selects, opcodeTable, encode, opcode, Instr.imm8] using
    high_byte 0x2100 b
theorem adlUpd : Statement .adlUpd := ⟨by decide, opcodeTable[7], by decide⟩
theorem adlRead : Statement .adlRead := ⟨by decide, opcodeTable[8], by decide⟩
theorem adler32 : Statement .adler32 := ⟨by decide, opcodeTable[9], by decide⟩
theorem dflBlock (f : Bool) : Statement (.dflBlock f) := by
  cases f <;> exact ⟨by decide, opcodeTable[10], by decide⟩
theorem dflEncode : Statement .dflEncode := ⟨by decide, opcodeTable[11], by decide⟩
theorem zlibWrap : Statement .zlibWrap := ⟨by decide, opcodeTable[12], by decide⟩
theorem pngChunk : Statement .pngChunk := ⟨by decide, opcodeTable[13], by decide⟩
theorem pngEncode : Statement .pngEncode := ⟨by decide, opcodeTable[14], by decide⟩

end Sys2Proof.Laws.TableRow
end

