-- ==== Sys2Proof/Laws/Steps.lean ====
section
/-!
SUPPORT. Inversion lemmas for the host's moves and the step: everything the state after one can be.
-/

namespace Sys2Proof.Machine

variable {s t : State}

/-- R225, R231: an illegal word: nothing while halted, else IllegalCommand. -/
theorem execIllegal_next (h : execIllegal s = .next t) :
    (s.code ≠ 0#4 ∧ t = s) ∨ (s.code = 0#4 ∧ t = s.takeFault .illegalCommand) := by
  rcases unlessHalted_next h with h | ⟨hs, h⟩
  · exact .inl h
  · exact .inr ⟨hs, (Host.Outcome.next.inj h).symm⟩

theorem issue_of_ok {w : Half} {i : Instr} (h : decode w = .ok i) : issue w s = exec i s := by
  simp [issue, h]

theorem issue_of_error {w : Half} {e : DecodeError} (h : decode w = .error e) :
    issue w s = execIllegal s := by
  simp [issue, h]

/-- R22: a word is a command that runs, or illegal. -/
theorem issue_next {w : Half} (h : issue w s = .next t) :
    (∃ i, decode w = .ok i ∧ exec i s = .next t) ∨
    (∃ e, decode w = .error e ∧ execIllegal s = .next t) := by
  cases hd : decode w with
  | ok i => exact .inl ⟨i, rfl, by rwa [issue_of_ok hd] at h⟩
  | error e => exact .inr ⟨e, rfl, by rwa [issue_of_error hd] at h⟩

theorem hostLoad_next {bs : List Byte} (h : hostLoad bs s = .next t) :
    bs.length ≤ s.cfg.ibufCap ∧ t = s.loadInput bs := by
  unfold hostLoad at h
  split at h
  · exact ⟨‹_›, (Host.Outcome.next.inj h).symm⟩
  · cases h

theorem hostReadOut_next (h : hostReadOut s = .next t) :
    ∃ out, s.output = some out ∧ t = s.reply (.out out) := by
  unfold hostReadOut at h
  split at h
  · exact ⟨_, ‹_›, (Host.Outcome.next.inj h).symm⟩
  · cases h

theorem hostWriteReg_next {n v : Nat} (h : hostWriteReg n v s = .next t) :
    (n = 0 ∧ v < 2 ^ 16 ∧ issue (BitVec.ofNat 16 v) s = .next t) ∨
    (n = 2 ∧ v < 2 ^ 32 ∧ t = s.setArg0 (BitVec.ofNat 32 v)) ∨
    (n = 3 ∧ v < 2 ^ 32 ∧ t = s.setArg1 (BitVec.ofNat 32 v)) := by
  unfold hostWriteReg at h
  split at h
  · split at h
    · exact .inl ⟨rfl, ‹_›, h⟩
    · cases h
  · split at h
    · exact .inr (.inl ⟨rfl, ‹_›, (Host.Outcome.next.inj h).symm⟩)
    · cases h
  · split at h
    · exact .inr (.inr ⟨rfl, ‹_›, (Host.Outcome.next.inj h).symm⟩)
    · cases h
  all_goals cases h

theorem hostReadReg_next {n : Nat} (h : hostReadReg n s = .next t) :
    1 ≤ n ∧ n ≤ 6 ∧ ∃ v, t = s.reply (.reg n v) := by
  unfold hostReadReg at h
  split at h
  all_goals first
    | exact ⟨by decide, by decide, _, (Host.Outcome.next.inj h).symm⟩
    | cases h

/-- R51: everything a host move can do. -/
theorem perform_next {m : HostMove} (h : perform m s = .next t) :
    (∃ bs, m = .load bs ∧ bs.length ≤ s.cfg.ibufCap ∧ t = s.loadInput bs) ∨
    (∃ out, m = .readOut ∧ s.output = some out ∧ t = s.reply (.out out)) ∨
    (∃ v, m = .writeReg 0 v ∧ v < 2 ^ 16 ∧ issue (BitVec.ofNat 16 v) s = .next t) ∨
    (∃ v, m = .writeReg 2 v ∧ v < 2 ^ 32 ∧ t = s.setArg0 (BitVec.ofNat 32 v)) ∨
    (∃ v, m = .writeReg 3 v ∧ v < 2 ^ 32 ∧ t = s.setArg1 (BitVec.ofNat 32 v)) ∨
    (∃ n v, m = .readReg n ∧ 1 ≤ n ∧ n ≤ 6 ∧ t = s.reply (.reg n v)) ∨
    (m = .reset ∧ t = s.resetBlock) ∨ (m = .noMove ∧ t = s) := by
  cases m with
  | load bs => exact .inl ⟨bs, rfl, hostLoad_next h⟩
  | readOut =>
    obtain ⟨out, ho, ht⟩ := hostReadOut_next h
    exact .inr (.inl ⟨out, rfl, ho, ht⟩)
  | writeReg n v =>
    rcases hostWriteReg_next h with ⟨rfl, hv, h⟩ | ⟨rfl, hv, h⟩ | ⟨rfl, hv, h⟩
    · exact .inr (.inr (.inl ⟨v, rfl, hv, h⟩))
    · exact .inr (.inr (.inr (.inl ⟨v, rfl, hv, h⟩)))
    · exact .inr (.inr (.inr (.inr (.inl ⟨v, rfl, hv, h⟩))))
  | readReg n =>
    obtain ⟨h1, h6, v, ht⟩ := hostReadReg_next h
    exact .inr (.inr (.inr (.inr (.inr (.inl ⟨n, v, rfl, h1, h6, ht⟩)))))
  | reset => exact .inr (.inr (.inr (.inr (.inr (.inr (.inl ⟨rfl, (Host.Outcome.next.inj h).symm⟩))))))
  | noMove => exact .inr (.inr (.inr (.inr (.inr (.inr (.inr ⟨rfl, (Host.Outcome.next.inj h).symm⟩))))))

theorem step_of_no_move (h : s.pending = []) : step s = .next s := by
  simp [step, nextMove, h]

theorem step_of_move {m : HostMove} {rest : List HostMove} (h : s.pending = m :: rest) :
    step s = perform m (s.setPending rest) := by
  simp [step, nextMove, h]

/-- R23: a step takes the head of the list of moves, or there is none and nothing changes. -/
theorem step_next (h : step s = .next t) :
    (s.pending = [] ∧ t = s) ∨
    ∃ m rest, s.pending = m :: rest ∧ perform m (s.setPending rest) = .next t := by
  cases hp : s.pending with
  | nil => exact .inl ⟨rfl, by rw [step_of_no_move hp] at h; exact (Host.Outcome.next.inj h).symm⟩
  | cons m rest => exact .inr ⟨m, rest, rfl, by rwa [step_of_move hp] at h⟩

end Sys2Proof.Machine
end

