-- ==== Sys2Proof/Tests/Slice0.lean ====
section
/-!
SUPPORT. Our own tests. Expected values are the spec's: the worked examples and vectors of
`95_test_vectors.md` (sections and ids named at each group) and the encodings of `30_encoding.md` R83.
The witnesses at the end show, for every obligation with hypotheses, values that meet them.
-/

namespace Sys2Proof.Tests

open Sys2Proof Sys2Proof.Machine

/-- Does an outcome go on, to a state with this property? -/
def after (o : Result) (p : State → Bool) : Bool :=
  match o with
  | .next t => p t
  | .fault _ => false
  | .refused _ => false

theorem after_next {o : Result} {p : State → Bool} (h : after o p = true) :
    ∃ t, o = .next t ∧ p t = true := by
  cases o with
  | next t => exact ⟨t, rfl, h⟩
  | fault f => cases h
  | refused r => cases h

/-- Is a move not admitted, for this reason? -/
def refuses (o : Result) (r : Refusal) : Bool :=
  match o with
  | .next _ => false
  | .fault _ => false
  | .refused r' => r' == r

/-- Does an outcome go on to exactly this state? -/
def goesTo (o : Result) (t : State) : Bool := after o (fun u => u == t)

/-- The output bytes and OLEN. -/
def gives (bs : List Byte) (t : State) : Bool :=
  t.output == some bs && t.olen == bs.length && t.status == 0

/-- Only STATUS has changed, to this code (R230). -/
def faultsWith (k : Word) (s t : State) : Bool := t == { s with status := k }

/-- Reset, then `.load`. -/
def loaded (bs : List Byte) : State := State.reset.loadInput bs

def abc : List Byte := [0x61, 0x62, 0x63]

/-- The capacities of the fault vectors F11 to F18. -/
def small : Config := { ibufCap := 65536, obufCap := 16 }

/-- Reset with those capacities, then `.load` of n zero bytes. -/
def smallLoaded (n : Nat) : State := (State.resetFor small).loadInput (List.replicate n 0)

/-- Reset, `.load "abc"`, then an illegal word. -/
def haltedState : State := (loaded abc).takeFault .illegalCommand

/-! ## WellFormed: the format check of R81 refuses ill-formed immediates -/

theorem test_format_none_refuses_immediate :
    Format.admits .none 0x00 = true ∧ Format.admits .none 0x01 = false ∧
    Format.admits .none 0x80 = false := by decide

theorem test_format_flag_refuses_bits_7_to_1 :
    Format.admits .flag 0x00 = true ∧ Format.admits .flag 0x01 = true ∧
    Format.admits .flag 0x02 = false ∧ Format.admits .flag 0x03 = false ∧
    Format.admits .flag 0x80 = false ∧ Format.admits .flag 0xFF = false := by decide

theorem test_format_byte_admits_all :
    Format.admits .byte 0x00 = true ∧ Format.admits .byte 0xFF = true := by decide

theorem test_commands_are_well_formed :
    (Instr.crcByte 0xFF).wellFormed = true ∧ (Instr.dflBlock true).wellFormed = true ∧
    Instr.pngEncode.wellFormed = true := by decide

/-- Host moves that are not admitted (R51, R52, section 9). -/
theorem test_moves_not_admitted :
    refuses (perform (.load (List.replicate 3 0)) (State.resetFor ⟨2, 2⟩)) .loadTooLong = true ∧
    refuses (perform (.writeReg 1 0) State.reset) .notWritable = true ∧
    refuses (perform (.writeReg 7 0) State.reset) .noSuchRegister = true ∧
    refuses (perform (.writeReg 0 0x10000) State.reset) .valueTooWide = true ∧
    refuses (perform (.writeReg 2 0x100000000) State.reset) .valueTooWide = true ∧
    refuses (perform (.readReg 0) State.reset) .notReadable = true ∧
    refuses (perform (.readReg 7) State.reset) .noSuchRegister = true := by decide

/-! ## Decode: words written out bit by bit from R83, op in bits 15:8, imm8 in bits 7:0 -/

theorem test_decode_crc_init : decode 0b00010000_00000000#16 = .ok .crcInit := by decide
theorem test_decode_crc_byte : decode 0b00010001_01100001#16 = .ok (.crcByte 0x61) := by decide
theorem test_decode_crc_upd : decode 0b00010010_00000000#16 = .ok .crcUpd := by decide
theorem test_decode_crc_read : decode 0b00010011_00000000#16 = .ok .crcRead := by decide
theorem test_decode_crc32 : decode 0b00010100_00000000#16 = .ok .crc32 := by decide
theorem test_decode_adl_init : decode 0b00100000_00000000#16 = .ok .adlInit := by decide
theorem test_decode_adl_byte : decode 0b00100001_10100101#16 = .ok (.adlByte 0xA5) := by decide
theorem test_decode_adl_upd : decode 0b00100010_00000000#16 = .ok .adlUpd := by decide
theorem test_decode_adl_read : decode 0b00100011_00000000#16 = .ok .adlRead := by decide
theorem test_decode_adler32 : decode 0b00100100_00000000#16 = .ok .adler32 := by decide
theorem test_decode_dfl_block_more : decode 0b00110000_00000000#16 = .ok (.dflBlock false) := by decide
theorem test_decode_dfl_block_final : decode 0b00110000_00000001#16 = .ok (.dflBlock true) := by decide
theorem test_decode_dfl_encode : decode 0b00110001_00000000#16 = .ok .dflEncode := by decide
theorem test_decode_zlib_wrap : decode 0b01000000_00000000#16 = .ok .zlibWrap := by decide
theorem test_decode_png_chunk : decode 0b01010000_00000000#16 = .ok .pngChunk := by decide
theorem test_decode_png_encode : decode 0b01100000_00000000#16 = .ok .pngEncode := by decide

/-- Section 8: undefined operation codes, the low byte being no operation code. -/
theorem test_decode_undefined_opcodes :
    [0x0000#16, 0x0010#16, 0x0011#16, 0x1500#16, 0x2500#16, 0x3200#16, 0x7000#16, 0x8000#16,
      0xFF00#16, 0xFFFF#16].all
      (fun w => decode w == .error (.undefinedOpcode (w.extractLsb' 8 8))) = true := by decide

/-- Section 8: a non-zero immediate on format N. -/
theorem test_decode_immediate_not_zero :
    [0x1001#16, 0x1280#16, 0x3101#16, 0x4001#16, 0x5001#16, 0x6001#16].all
      (fun w => decode w == .error (.immediateNotZero (w.extractLsb' 0 8))) = true := by decide

/-- Section 8: bits 7:1 of format F. -/
theorem test_decode_reserved_bits :
    [0x3002#16, 0x3003#16, 0x3080#16, 0x30FF#16].all
      (fun w => decode w == .error (.reservedBitsSet (w.extractLsb' 0 8))) = true := by decide

theorem test_decode_table_word :
    decodeTableWord 16 0x1161 = some (.crcByte 0x61) ∧ decodeTableWord 16 0x3002 = none ∧
    decodeTableWord 8 0x10 = none ∧ decodeTableWord 32 0x10001000 = none := by decide

/-! ## The commands -/

/-- Section 2, first command row: RES survives. -/
theorem test_crc_init :
    after (exec .crcInit { State.reset with crc := 0x174841BC, res := 0x12345678 })
      (fun t => t.crc == 0xFFFFFFFF && t.res == 0x12345678) = true := by decide

/-- Section 2, one byte. -/
theorem test_crc_byte :
    after (exec (.crcByte 0x61) State.reset) (fun t => t.crc == 0x174841BC) = true := by
  decide +kernel

theorem test_crc_byte_table_entry :
    after (exec (.crcByte 0x80) { State.reset with crc := 0 })
      (fun t => t.crc == 0xEDB88320) = true := by decide +kernel

/-- Section 2: "b" fed after "a". -/
theorem test_crc_upd_continues :
    after (exec .crcUpd { loaded [0x62] with crc := 0x174841BC })
      (fun t => t.crc == 0x617CB792 && t.res == 0) = true := by decide +kernel

theorem test_crc_upd_empty :
    after (exec .crcUpd { State.reset with crc := 0xDEADBEEF })
      (fun t => t.crc == 0xDEADBEEF) = true := by decide

theorem test_crc_read :
    after (exec .crcRead { State.reset with crc := 0x340BC6D9 })
      (fun t => t.res == 0xCBF43926 && t.crc == 0x340BC6D9) = true := by decide

/-- E1, the document's own value; the old state is discarded. -/
theorem test_crc32_published :
    after (exec .crc32 { loaded [0x31, 0x32, 0x33, 0x34, 0x35, 0x36, 0x37, 0x38, 0x39] with crc := 0 })
      (fun t => t.res == 0xCBF43926 && t.crc == 0x340BC6D9) = true := by decide +kernel

theorem test_crc32_of_ones :
    after (exec .crc32 (loaded [0xFF, 0xFF, 0xFF, 0xFF, 0x00]))
      (fun t => t.crc == 0 && t.res == 0xFFFFFFFF) = true := by decide +kernel

theorem test_adl_init :
    after (exec .adlInit { State.reset with s1 := 98, s2 := 98, res := 0x12345678 })
      (fun t => t.s1 == 1 && t.s2 == 0 && t.res == 0x12345678) = true := by decide

/-- Section 3: both sums wrap, S2 uses the new S1. -/
theorem test_adl_byte_both_wrap :
    after (exec (.adlByte 0xFF) { State.reset with s1 := 65520, s2 := 65520 })
      (fun t => t.s1 == 254 && t.s2 == 253) = true := by decide

theorem test_adl_byte_first :
    after (exec (.adlByte 0x61) State.reset) (fun t => t.s1 == 98 && t.s2 == 98) = true := by decide

theorem test_adl_upd :
    after (exec .adlUpd (loaded abc)) (fun t => t.s1 == 295 && t.s2 == 589 && t.res == 0) = true := by
  decide

theorem test_adl_read :
    after (exec .adlRead { State.reset with s1 := 295, s2 := 589 })
      (fun t => t.res == 0x024D0127 && t.s1 == 295 && t.s2 == 589) = true := by decide

/-- E3; the old sums are discarded. -/
theorem test_adler32 :
    after (exec .adler32 { loaded [0x61] with s1 := 1021, s2 := 2554 })
      (fun t => t.res == 0x00620062 && t.s1 == 98 && t.s2 == 98) = true := by decide

/-- "Wikipedia". -/
theorem test_adler32_wikipedia :
    after (exec .adler32 (loaded [0x57, 0x69, 0x6B, 0x69, 0x70, 0x65, 0x64, 0x69, 0x61]))
      (fun t => t.res == 0x11E60398) = true := by decide +kernel

/-- Section 4. -/
theorem test_dfl_block :
    after (exec (.dflBlock false) (loaded abc))
      (gives [0x00, 0x03, 0x00, 0xFC, 0xFF, 0x61, 0x62, 0x63]) = true ∧
    after (exec (.dflBlock true) State.reset) (gives [0x01, 0x00, 0x00, 0xFF, 0xFF]) = true := by
  decide +kernel

/-- F11, F12, F18, F6: 16 bytes fit, 17 do not, BlockTooLarge comes first. -/
theorem test_dfl_block_faults :
    after (exec (.dflBlock true) (smallLoaded 11)) (fun t => t.olen == 16) = true ∧
    after (exec (.dflBlock true) (smallLoaded 12)) (faultsWith 6 (smallLoaded 12)) = true ∧
    after (exec (.dflBlock false) { State.resetFor small with ilen := 65536 })
      (faultsWith 2 { State.resetFor small with ilen := 65536 }) = true := by decide +kernel

theorem test_dfl_encode :
    after (exec .dflEncode (loaded abc))
      (gives [0x01, 0x03, 0x00, 0xFC, 0xFF, 0x61, 0x62, 0x63]) = true ∧
    after (exec .dflEncode (smallLoaded 12)) (faultsWith 6 (smallLoaded 12)) = true := by
  decide +kernel

/-- Section 4, whole inputs: the number of blocks at the boundaries. -/
theorem test_number_of_blocks :
    [0, 1, 65534, 65535, 65536, 131070, 131071, 196605, 196606].map nseg =
      [1, 1, 1, 1, 2, 2, 3, 3, 4] := by decide

/-- Section 5. -/
theorem test_zlib_wrap :
    after (exec .zlibWrap (loaded abc)) (fun t => t.s1 == 295 && t.s2 == 589 && t.res == 0 &&
      gives [0x78, 0x01, 0x01, 0x03, 0x00, 0xFC, 0xFF, 0x61, 0x62, 0x63, 0x02, 0x4D, 0x01, 0x27] t)
      = true := by decide +kernel

/-- F14. -/
theorem test_zlib_wrap_overflow :
    after (exec .zlibWrap (smallLoaded 5)) (fun t => t.olen == 16) = true ∧
    after (exec .zlibWrap (smallLoaded 6)) (faultsWith 6 (smallLoaded 6)) = true := by decide +kernel

/-- Section 6, "tEXt". -/
theorem test_png_chunk :
    after (exec .pngChunk ((loaded abc).setArg0 0x74455874)) (fun t => t.crc == 0x037A6477 &&
      t.arg0 == 0x74455874 && gives [0x00, 0x00, 0x00, 0x03, 0x74, 0x45, 0x58, 0x74, 0x61, 0x62, 0x63,
        0xFC, 0x85, 0x9B, 0x88] t) = true := by decide +kernel

/-- F15, and R192 check (1) in a configuration where it can fail. -/
theorem test_png_chunk_faults :
    after (exec .pngChunk (smallLoaded 4)) (fun t => t.olen == 16) = true ∧
    after (exec .pngChunk (smallLoaded 5)) (faultsWith 6 (smallLoaded 5)) = true ∧
    after (exec .pngChunk { State.resetFor ⟨2 ^ 33, 0⟩ with ilen := 2 ^ 32 })
      (fun t => t.code == 5) = true := by decide +kernel

/-- E9, vector P1x1. -/
theorem test_png_encode :
    after (exec .pngEncode (((loaded [0xFF, 0x00, 0x00]).setArg0 1).setArg1 1))
      (fun t => t.s1 == 256 && t.s2 == 769 && t.crc == 0x51BD9F7D && t.res == 0 &&
        gives [0x89, 0x50, 0x4E, 0x47, 0x0D, 0x0A, 0x1A, 0x0A, 0x00, 0x00, 0x00, 0x0D, 0x49, 0x48, 0x44,
          0x52, 0x00, 0x00, 0x00, 0x01, 0x00, 0x00, 0x00, 0x01, 0x08, 0x02, 0x00, 0x00, 0x00, 0x90, 0x77,
          0x53, 0xDE, 0x00, 0x00, 0x00, 0x0F, 0x49, 0x44, 0x41, 0x54, 0x78, 0x01, 0x01, 0x04, 0x00, 0xFB,
          0xFF, 0x00, 0xFF, 0x00, 0x00, 0x03, 0x01, 0x01, 0x00, 0x8D, 0x1D, 0xE5, 0x82, 0x00, 0x00, 0x00,
          0x00, 0x49, 0x45, 0x4E, 0x44, 0xAE, 0x42, 0x60, 0x82] t) = true := by decide +kernel

/-- F2, F4, F8, F9, F10, F16, F17: the code each leaves. -/
theorem test_png_encode_faults :
    let code (cfg : Config) (w h : Word) (n : Nat) (k : BitVec 4) : Bool :=
      after (exec .pngEncode { State.resetFor cfg with arg0 := w, arg1 := h, ilen := n })
        (fun t => t.code == k)
    code Config.standard 1 1 4 1 = true ∧ code Config.standard 0x10000 0x10000 0 1 = true ∧
    code Config.standard 0 0xFFFFFFFF 0 5 = true ∧ code Config.standard 0 0xFFFB0008 0 6 = true ∧
    code Config.standard 0 0xFFFB0009 0 5 = true ∧ code small 0 0 0 6 = true ∧
    code small 1 1 2 1 = true := by decide +kernel

/-! ## Faults, the halt, host moves and steps -/

/-- F19, F20: decode comes before every other check. -/
theorem test_illegal_word :
    after (issue 0x1001 (loaded abc)) (faultsWith 4 (loaded abc)) = true ∧
    after (issue 0x3002 (smallLoaded 3)) (faultsWith 4 (smallLoaded 3)) = true := by decide +kernel

/-- Section 9, precision and halt, steps 2, 4, 6 and 7. -/
theorem test_halted :
    goesTo (issue 0x1000 haltedState) haltedState = true ∧ goesTo (issue 0x0000 haltedState) haltedState = true ∧
    goesTo (issue 0x1400 haltedState) haltedState = true ∧
    after (perform (.load [0x7A, 0x7A]) haltedState)
      (fun t => t.ilen == 2 && t.input == some [0x7A, 0x7A] && t.status == 4) = true ∧
    after (perform .reset haltedState) (fun t => t == State.reset) = true := by decide +kernel

/-- Section 9: a checksum command leaves the output, a framing command replaces it. -/
theorem test_output_is_replaced :
    let s := (loaded []).commit [1, 2, 3, 4, 5, 6, 7, 8]
    after (exec .adler32 s) (gives [1, 2, 3, 4, 5, 6, 7, 8]) = true ∧
    after (exec .dflEncode s)
      (fun t => gives [0x01, 0x00, 0x00, 0xFF, 0xFF] t && t.obuf.length == 5) = true := by decide +kernel

/-- R52: no byte of a longer previous input stays valid. -/
theorem test_load_replaces :
    after (perform (.load [0x7A]) (loaded abc))
      (fun t => t.input == some [0x7A] && t.ibuf.length == 1 && t.inputByte 1 == none) = true := by decide

theorem test_host_registers :
    after (perform (.writeReg 2 0x49454E44) State.reset) (fun t =>
      after (perform (.readReg 2) t) (fun u => u.replies == [.reg 2 0x49454E44])) = true := by decide

theorem test_host_read_out :
    after (perform .readOut ((loaded abc).commit [0x01, 0x02]))
      (fun t => t.replies == [.out [0x01, 0x02]] && t.olen == 2) = true := by decide

/-- A word placed by `withFetchWord` is the very next command. -/
theorem test_fetch_word :
    after (step (State.reset.withFetchWord 16 0x1161))
      (fun t => t.crc == 0x174841BC && t.pending == []) = true := by decide +kernel

theorem test_no_move : goesTo (step State.reset) State.reset = true := by decide

/-! ## Witnesses: values that meet every hypothesis of an obligation, clause by clause -/

theorem witness_DecodeAndEncodeAgree : decode 0x1161#16 = .ok (.crcByte 0x61) := by decide

theorem witness_LegalWordsAreThoseARowSelects :
    ∃ r ∈ opcodeTable, r.selects 0x3001#16 = true ∧ decode 0x3001#16 = .ok (.dflBlock true) := by
  decide

theorem witness_WordIsOpcodeThenImmediate : Instr.pngEncode.format = .none := by decide

/-- One word for each way to be illegal, at the edges, and a legal one that runs. -/
theorem witness_IllegalWordsTakeIllegalCommand :
    State.reset.code = 0#4 ∧ (0x0F00#16).extractLsb' 8 8 = 0x0F#8 ∧
    (0x1001#16).extractLsb' 8 8 = 0x10#8 ∧ (0x1001#16).extractLsb' 0 8 ≠ 0#8 ∧
    (0x3002#16).extractLsb' 8 8 = 0x30#8 ∧ (0x3002#16).extractLsb' 0 8 &&& 0xFE#8 ≠ 0#8 ∧
    (0x3001#16).extractLsb' 0 8 &&& 0xFE#8 = 0#8 ∧
    after (issue 0x3001 State.reset) (fun t => t.code == 0) = true := by decide +kernel

theorem witness_StepRunsTheDecodedCommand :
    (State.reset.withFetchWord 16 0x1000).pending = .writeReg 0 (0x1000#16).toNat :: [] ∧
    decode 0x1000#16 = .ok .crcInit ∧ decode 0#16 = .error (.undefinedOpcode 0) ∧
    (State.reset.withFetchWord 16 0).pending = .writeReg 0 (0#16).toNat :: [] ∧
    (State.reset.withFetchWord 16 0).code = 0#4 ∧
    (haltedState.withFetchWord 16 0).pending = .writeReg 0 (0#16).toNat :: [] ∧
    (haltedState.withFetchWord 16 0).code ≠ 0#4 := by decide

theorem witness_StepTakesTheNextMove :
    State.reset.pending = [] ∧ (State.reset.setPending [.noMove]).pending = .noMove :: [] ∧
    (State.reset.setPending [.readOut, .reset]).pending = .readOut :: [.reset] ∧
    goesTo (perform .reset State.reset) State.reset = true := by decide

/-- The longest load that is admitted, and the shortest that is not. -/
theorem witness_HostLoadReplacesTheInput :
    abc.length ≤ (State.resetFor ⟨3, 0⟩).cfg.ibufCap ∧
    (State.resetFor ⟨2, 0⟩).cfg.ibufCap < abc.length := by decide

theorem witness_HostReadOutReturnsTheOutput :
    (State.reset.commit abc).output = some abc ∧ 2 < (State.reset.commit abc).olen := by decide

/-- Both sides of each width and number bound. -/
theorem witness_HostRegisterWrites :
    (0 = 0 ∧ 65535 < 2 ^ 16) ∧ 4294967295 < 2 ^ 32 ∧ 2 ^ 16 ≤ 65536 ∧ 2 ^ 32 ≤ 4294967296 ∧ 7 ≤ 7 ∧
    after (perform (.writeReg 3 4294967295) State.reset) (fun t => t.arg1 == 0xFFFFFFFF) = true ∧
    refuses (perform (.writeReg 0 65536) State.reset) .valueTooWide = true ∧
    refuses (perform (.writeReg 2 4294967296) State.reset) .valueTooWide = true ∧
    refuses (perform (.writeReg 6 0) State.reset) .notWritable = true ∧
    refuses (perform (.writeReg 7 0) State.reset) .noSuchRegister = true := by decide

theorem witness_HostRegisterReads :
    7 ≤ 7 ∧ refuses (perform (.readReg 7) State.reset) .noSuchRegister = true := by decide

/-- A running block with an input: the hypotheses of every unit command's statement. -/
theorem witness_CrcInitSetsTheInitialState : State.reset.code = 0#4 := by decide
theorem witness_CrcByteFeedsOneByte : State.reset.code = 0#4 := by decide
theorem witness_CrcUpdFeedsTheInput :
    (loaded abc).code = 0#4 ∧ (loaded abc).input = some abc := by decide
theorem witness_CrcReadWritesTheFinishedChecksum : State.reset.code = 0#4 := by decide
theorem witness_Crc32IsTheWholeContract :
    (loaded abc).code = 0#4 ∧ (loaded abc).input = some abc := by decide
theorem witness_UpdIsTheByteCommandRepeated : (loaded abc).input = some abc := by decide
theorem witness_AdlInitSetsTheInitialSums : State.reset.code = 0#4 := by decide
theorem witness_AdlByteFeedsOneByte : State.reset.code = 0#4 := by decide
theorem witness_AdlUpdFeedsTheInput :
    (loaded abc).code = 0#4 ∧ (loaded abc).input = some abc := by decide
theorem witness_AdlReadWritesTheFinishedChecksum : State.reset.code = 0#4 := by decide
theorem witness_Adler32IsTheWholeContract :
    (loaded abc).code = 0#4 ∧ (loaded abc).input = some abc := by decide

/-- The largest reduced sums. -/
theorem witness_AdlerStepOnReducedSums :
    (65520#16).toNat < 65521 ∧ (0#16).toNat < 65521 := by decide

theorem witness_StoredBlockLayout : (List.replicate 65535 (0 : Byte)).length ≤ 65535 := by
  rw [List.length_replicate]

/-- The empty input, and one of two segments. -/
theorem witness_SegmentsPartitionTheInput :
    nseg ([] : List Byte).length = 1 ∧ 0 + 1 < nseg (List.replicate 65536 (0 : Byte)).length ∧
    List.replicate 65536 (0 : Byte) ≠ [] := by
  rw [List.length_replicate]
  exact ⟨by decide, by decide, List.replicate_succ_ne_nil⟩

theorem witness_DeflateOutputReadsBack :
    (List.replicate 65535 (0 : Byte)).length = 65535 ∧
    (List.replicate 65536 (0 : Byte)).length = 65536 :=
  ⟨List.length_replicate, List.length_replicate⟩

theorem witness_OutputLengths :
    typeIEND.length = 4 ∧ [0xFF, 0x00, (0x00 : Byte)].length = 3 * (1#32).toNat * (1#32).toNat := by
  decide

/-- Both sides of 65535, both sides of OBUF_CAP, and an operation code with a reserved bit. -/
theorem witness_DflBlockCommand :
    let big : State := { State.reset with ilen := 65536 }
    (big.code = 0#4 ∧ 65535 < big.ilen) ∧
    ((smallLoaded 12).code = 0#4 ∧ (smallLoaded 12).ilen ≤ 65535 ∧
      (smallLoaded 12).cfg.obufCap < 5 + (smallLoaded 12).ilen) ∧
    ((smallLoaded 11).input = some (List.replicate 11 0) ∧ (smallLoaded 11).ilen ≤ 65535 ∧
      5 + (smallLoaded 11).ilen ≤ (smallLoaded 11).cfg.obufCap) ∧
    (0x3002#16).extractLsb' 8 8 = 0x30#8 ∧ (0x3002#16).extractLsb' 1 7 ≠ 0#7 := by decide

/-- The longest block the format holds runs. -/
theorem witness_DflBlockCommand_longest :
    (loaded (List.replicate 65535 0)).code = 0#4 ∧
    (loaded (List.replicate 65535 0)).input = some (List.replicate 65535 0) ∧
    (loaded (List.replicate 65535 0)).ilen ≤ 65535 ∧
    5 + (loaded (List.replicate 65535 0)).ilen ≤ (loaded (List.replicate 65535 0)).cfg.obufCap := by
  have hl : (loaded (List.replicate 65535 0)).ilen = 65535 := List.length_replicate
  rw [hl]
  exact ⟨rfl, State.loadInput_input _ _, Nat.le_refl _, by decide⟩

theorem witness_DflEncodeCommand :
    ((smallLoaded 12).code = 0#4 ∧
      (smallLoaded 12).cfg.obufCap < (smallLoaded 12).ilen + 5 * nseg (smallLoaded 12).ilen) ∧
    ((smallLoaded 11).code = 0#4 ∧ (smallLoaded 11).input = some (List.replicate 11 0) ∧
      (smallLoaded 11).ilen + 5 * nseg (smallLoaded 11).ilen ≤ (smallLoaded 11).cfg.obufCap) := by
  decide

theorem witness_ZlibWrapCommand :
    ((smallLoaded 6).code = 0#4 ∧
      (smallLoaded 6).cfg.obufCap < (smallLoaded 6).ilen + 5 * nseg (smallLoaded 6).ilen + 6) ∧
    ((smallLoaded 5).code = 0#4 ∧ (smallLoaded 5).input = some (List.replicate 5 0) ∧
      (smallLoaded 5).ilen + 5 * nseg (smallLoaded 5).ilen + 6 ≤ (smallLoaded 5).cfg.obufCap) := by
  decide

theorem witness_ZlibOutputIsMadeOfTheLowerCommands :
    (loaded abc).code = 0#4 ∧ ∃ z, exec .zlibWrap (loaded abc) = .next z ∧ z.code = 0#4 := by
  obtain ⟨z, hz, hc⟩ := after_next (o := exec .zlibWrap (loaded abc)) (p := fun t => t.code == 0)
    (by decide +kernel)
  exact ⟨rfl, z, hz, by simpa using hc⟩

theorem witness_PngChunkCommand :
    (let big : State := { State.reset with ilen := 2 ^ 32 };
      big.code = 0#4 ∧ 2 ^ 32 - 1 < big.ilen) ∧
    ((smallLoaded 5).code = 0#4 ∧ (smallLoaded 5).ilen ≤ 2 ^ 32 - 1 ∧
      (smallLoaded 5).cfg.obufCap < (smallLoaded 5).ilen + 12) ∧
    ((smallLoaded 4).code = 0#4 ∧ (smallLoaded 4).input = some (List.replicate 4 0) ∧
      (smallLoaded 4).ilen ≤ 2 ^ 32 - 1 ∧
      (smallLoaded 4).ilen + 12 ≤ (smallLoaded 4).cfg.obufCap) := by decide

theorem witness_PngChunkEmittedFields :
    (loaded abc).code = 0#4 ∧ (loaded abc).input = some abc ∧
    ∃ t, exec .pngChunk (loaded abc) = .next t ∧ t.code = 0#4 := by
  obtain ⟨t, ht, hc⟩ := after_next (o := exec .pngChunk (loaded abc)) (p := fun t => t.code == 0)
    (by decide +kernel)
  exact ⟨rfl, by decide, t, ht, by simpa using hc⟩

theorem witness_ScanlineRows :
    [1, 2, 3, 4, 5, (6 : Byte)].length = 3 * 1 * 2 ∧ 1 < 2 := by decide

/-- F2, F8 and F10, F9, and P1x1: each clause, at the edge of the chunk length. -/
theorem witness_PngEncodeCommand :
    let ok := ((loaded [0xFF, 0x00, 0x00]).setArg0 1).setArg1 1
    (ok.code = 0#4 ∧ ok.input = some [0xFF, 0x00, 0x00] ∧
      ok.ilen = 3 * ok.arg0.toNat * ok.arg1.toNat ∧ (4 + 5 * nseg 4 + 6) ≤ 2 ^ 32 - 1 ∧
      63 + 4 + 5 * nseg 4 ≤ ok.cfg.obufCap) ∧
    (loaded abc).ilen ≠ 3 * (loaded abc).arg0.toNat * (loaded abc).arg1.toNat ∧
    (let s : State := { State.reset with arg1 := 0xFFFB0009 };
      let l := s.arg1.toNat * (1 + 3 * s.arg0.toNat);
      s.ilen = 3 * s.arg0.toNat * s.arg1.toNat ∧ 2 ^ 32 - 1 < l + 5 * nseg l + 6) ∧
    (let s : State := { State.reset with arg1 := 0xFFFB0008 };
      let l := s.arg1.toNat * (1 + 3 * s.arg0.toNat);
      s.ilen = 3 * s.arg0.toNat * s.arg1.toNat ∧ l + 5 * nseg l + 6 = 2 ^ 32 - 1 ∧
        s.cfg.obufCap < 63 + l + 5 * nseg l) := by decide

theorem witness_PngFileLayout :
    [0xFF, 0x00, (0x00 : Byte)].length = 3 * (1#32).toNat * (1#32).toNat := by decide

theorem witness_PngOutputReadsBack :
    let s := ((loaded [0xFF, 0x00, 0x00]).setArg0 1).setArg1 1
    s.code = 0#4 ∧ s.input = some [0xFF, 0x00, 0x00] ∧
    ∃ t, exec .pngEncode s = .next t ∧ t.code = 0#4 := by
  intro s
  obtain ⟨t, ht, hc⟩ := after_next (o := exec .pngEncode s) (p := fun t => t.code == 0)
    (by decide +kernel)
  exact ⟨rfl, by decide, t, ht, by simpa using hc⟩

/-- A command that faults, and a word that does. -/
theorem witness_FaultsArePrecise :
    (smallLoaded 12).code = 0#4 ∧
    goesTo (exec .dflEncode (smallLoaded 12)) ((smallLoaded 12).takeFault .outputOverflow) = true ∧
    goesTo (issue 0x3100 (smallLoaded 12)) ((smallLoaded 12).takeFault .outputOverflow) = true ∧
    ((smallLoaded 12).takeFault .outputOverflow).code ≠ 0#4 := by decide +kernel

/-- Both codes occur. -/
theorem witness_DocumentFaultsExactlyWhen :
    let big : State := { State.reset with ilen := 65536 }
    (loaded abc).code = 0#4 ∧ big.code = 0#4 ∧
    goesTo (exec .pngEncode (loaded abc)) ((loaded abc).takeFault .inputSizeMismatch) = true ∧
    goesTo (exec (.dflBlock true) big) (big.takeFault .blockTooLarge) = true := by decide +kernel

/-- Both codes occur, code 5 for both of its commands. -/
theorem witness_CapacityFaultsExactlyWhen :
    let big : State := { State.reset with ilen := 2 ^ 32 }
    let tall : State := { State.reset with arg1 := 0xFFFFFFFF }
    big.code = 0#4 ∧ tall.code = 0#4 ∧ (smallLoaded 12).code = 0#4 ∧
    goesTo (exec .pngChunk big) (big.takeFault .chunkTooLong) = true ∧
    goesTo (exec .pngEncode tall) (tall.takeFault .chunkTooLong) = true ∧
    goesTo (exec .zlibWrap (smallLoaded 12)) ((smallLoaded 12).takeFault .outputOverflow) = true := by
  decide +kernel

theorem witness_HaltedBlock :
    haltedState.code ≠ 0#4 ∧ abc.length ≤ haltedState.cfg.ibufCap ∧ 4294967295 < 2 ^ 32 ∧
    haltedState.output = some [] ∧ (6, 0) ∈ [(5, haltedState.ilen), (6, haltedState.olen)] ∧
    HostMove.readOut ≠ .reset ∧
    after (perform .readOut haltedState) (fun _ => true) = true := by decide

/-- A halted block, a pending command and a load, and a run of two steps. -/
theorem witness_HaltedRunKeepsResults :
    let s := haltedState.setPending [.writeReg 0 0x1400, .load [0x7A]]
    s.code ≠ 0#4 ∧ .reset ∉ s.pending ∧
    ∃ t, Host.Core.run core 2 s = .next t := by
  intro s
  exact ⟨by decide, by decide, _, rfl⟩

/-- A command, a read, and a program of two moves with one more to come. -/
theorem witness_RunParametersAreNotState :
    let s := (loaded abc).setPending ([.writeReg 0 0x1000, .readReg 5] ++ [.reset])
    let r : Run := { cfg := s.cfg, pending := [], replies := [.reg 1 0] }
    r.cfg = s.cfg ∧ s.pending = [.writeReg 0 0x1000, .readReg 5] ++ [.reset] ∧
    (∃ t, exec .crcInit s = .next t) ∧ (∃ t, perform (.readReg 5) s = .next t) ∧
    runProgram s.cfg [.writeReg 0 0x1000, .readReg 5] s.toBlock s.replies =
      .next (s.toBlock, [.reg 5 3]) :=
  ⟨rfl, rfl, ⟨_, rfl⟩, ⟨_, rfl⟩, rfl⟩

theorem witness_ChecksumCommandFrame :
    checksumCommand (.crcByte 0x61) = true ∧
    ∃ t, exec (.crcByte 0x61) State.reset = .next t := ⟨rfl, _, rfl⟩

/-- A framing command that completes, and one that faults. -/
theorem witness_FramingCommandFrame :
    framingCommand .dflEncode = true ∧
    (∃ t, exec .dflEncode (loaded abc) = .next t ∧ t.code = 0#4) ∧
    (∃ t, exec .dflEncode (smallLoaded 12) = .next t ∧ t.code ≠ 0#4) := by
  obtain ⟨t, ht, hc⟩ := after_next (o := exec .dflEncode (loaded abc)) (p := fun t => t.code == 0)
    (by decide +kernel)
  obtain ⟨u, hu, hd⟩ := after_next (o := exec .dflEncode (smallLoaded 12)) (p := fun t => t.code != 0)
    (by decide +kernel)
  exact ⟨rfl, ⟨t, ht, by simpa using hc⟩, ⟨u, hu, by simpa using hd⟩⟩

/-- Two running states that differ in CRC, the sums, RES and the output. -/
theorem witness_CompositeResultsIgnoreOldRegisters :
    let s := loaded abc
    let s' := ({ loaded abc with crc := 7, s1 := 5, s2 := 6, res := 9 } : State).commit [1]
    framingCommand .zlibWrap = true ∧ s.code = 0#4 ∧ s'.code = 0#4 ∧ s'.cfg = s.cfg ∧
    s'.arg0 = s.arg0 ∧ s'.arg1 = s.arg1 ∧ s'.ilen = s.ilen ∧ s'.ibuf = s.ibuf ∧
    (∃ t, exec .zlibWrap s = .next t ∧ t.code = 0#4) ∧ (∃ t', exec .zlibWrap s' = .next t') := by
  intro s s'
  obtain ⟨t, ht, hc⟩ := after_next (o := exec .zlibWrap s) (p := fun t => t.code == 0)
    (by decide +kernel)
  obtain ⟨u, hu, -⟩ := after_next (o := exec .zlibWrap s') (p := fun t => t.code == 0)
    (by decide +kernel)
  exact ⟨rfl, rfl, rfl, rfl, rfl, rfl, rfl, rfl, ⟨t, ht, by simpa using hc⟩, u, hu⟩

/-- A state away from reset that meets the invariant, and a step from it. -/
theorem witness_StepKeepsTheInvariant :
    (((loaded abc).commit abc).withFetchWord 16 0x2161).Inv ∧
    ∃ t, step (((loaded abc).commit abc).withFetchWord 16 0x2161) = .next t := by
  refine ⟨by decide, ?_⟩
  obtain ⟨t, ht, -⟩ := after_next
    (o := step (((loaded abc).commit abc).withFetchWord 16 0x2161)) (p := fun _ => true)
    (by decide +kernel)
  exact ⟨t, ht⟩

theorem witness_InvariantStatesHaveReadableBuffers : ((loaded abc).commit abc).Inv := by decide

theorem witness_EveryCommandEndsInANextState : haltedState.Inv := by decide

theorem witness_PseudoInstructionsRunAsExpanded :
    let s := (loaded abc).setPending ((ListingLine.crcStr abc).moves ++ [.readOut])
    let u := (loaded abc).setPending ((ListingLine.adlStr abc).moves ++ [.readOut])
    s.code = 0#4 ∧ u.code = 0#4 ∧ s.pending = (ListingLine.crcStr abc).moves ++ [.readOut] ∧
    u.pending = (ListingLine.adlStr abc).moves ++ [.readOut] := by decide

end Sys2Proof.Tests
end

section
/-!
PROOF. Progress (`00_scope.md` R13, `60_exceptions.md` R240): no shared operation of the command template
(`40_crc32.md` R120) stops by itself, and `withInput` stops only on an input that cannot be read whole,
which the invariant excludes. So every command built from them ends in a next state, and so does every
word; a step can besides be a move that is not admitted.
-/

namespace Sys2Proof.Machine

variable {s : State}

theorem unlessHalted_ends {k : Result} (hk : ∃ t, k = .next t) :
    ∃ t, unlessHalted s k = .next t := by
  by_cases hs : s.code = 0#4
  · rwa [unlessHalted_of_running hs]
  · exact ⟨s, unlessHalted_of_halted hs⟩

theorem check_ends {bad : Bool} {f : FaultCode} {k : Result} (hk : ∃ t, k = .next t) :
    ∃ t, check bad f s k = .next t := by
  cases bad with
  | true => exact ⟨s.takeFault f, check_of_bad⟩
  | false => exact hk

theorem withInput_ends {data : List Byte} {k : List Byte → Result} (hin : s.input = some data)
    (hk : ∃ t, k data = .next t) : ∃ t, withInput s k = .next t := by
  rwa [withInput_of_some hin]

/-- R13: where the whole input can be read every command ends in a next state. -/
theorem exec_ends {data : List Byte} (hin : s.input = some data) (i : Instr) :
    ∃ t, exec i s = .next t := by
  cases i with
  | crcInit | crcByte | crcRead | adlInit | adlByte | adlRead => exact unlessHalted_ends ⟨_, rfl⟩
  | crcUpd | crc32 | adlUpd | adler32 => exact unlessHalted_ends (withInput_ends hin ⟨_, rfl⟩)
  | dflEncode | zlibWrap =>
    exact unlessHalted_ends (check_ends (withInput_ends hin ⟨_, rfl⟩))
  | dflBlock | pngChunk =>
    exact unlessHalted_ends (check_ends (check_ends (withInput_ends hin ⟨_, rfl⟩)))
  | pngEncode =>
    exact unlessHalted_ends (check_ends (check_ends (check_ends (withInput_ends hin ⟨_, rfl⟩))))

/-- R13, R225: where the whole input can be read every word, legal or not, ends in a next state. -/
theorem issue_ends {data : List Byte} (hin : s.input = some data) (w : Half) :
    ∃ t, issue w s = .next t := by
  cases hd : decode w with
  | ok i => simpa only [issue_of_ok hd] using exec_ends hin i
  | error e =>
    rw [issue_of_error hd]
    exact unlessHalted_ends ⟨_, rfl⟩

theorem hostLoad_ends_or_refused (bs : List Byte) (s : State) :
    (∃ t, hostLoad bs s = .next t) ∨ ∃ r, hostLoad bs s = .refused r := by
  unfold hostLoad
  split
  · exact .inl ⟨_, rfl⟩
  · exact .inr ⟨_, rfl⟩

theorem hostReadOut_ends {out : List Byte} (hout : s.output = some out) :
    ∃ t, hostReadOut s = .next t :=
  ⟨s.reply (.out out), by simp [hostReadOut, hout]⟩

theorem hostWriteReg_ends_or_refused {data : List Byte} (hin : s.input = some data) (n v : Nat) :
    (∃ t, hostWriteReg n v s = .next t) ∨ ∃ r, hostWriteReg n v s = .refused r := by
  unfold hostWriteReg
  split
  · split
    · exact .inl (issue_ends hin _)
    · exact .inr ⟨_, rfl⟩
  · split
    · exact .inl ⟨_, rfl⟩
    · exact .inr ⟨_, rfl⟩
  · split
    · exact .inl ⟨_, rfl⟩
    · exact .inr ⟨_, rfl⟩
  all_goals exact .inr ⟨_, rfl⟩

theorem hostReadReg_ends_or_refused (n : Nat) (s : State) :
    (∃ t, hostReadReg n s = .next t) ∨ ∃ r, hostReadReg n s = .refused r := by
  match n with
  | 1 | 2 | 3 | 4 | 5 | 6 => exact .inl ⟨_, rfl⟩
  | 0 | _ + 7 => exact .inr ⟨_, rfl⟩

/-- R13, R51: where both buffers can be read whole a host move ends in a next state or is not admitted. -/
theorem perform_ends_or_refused {data out : List Byte} (hin : s.input = some data)
    (hout : s.output = some out) (m : HostMove) :
    (∃ t, perform m s = .next t) ∨ ∃ r, perform m s = .refused r := by
  cases m with
  | load bs => exact hostLoad_ends_or_refused bs s
  | readOut => exact .inl (hostReadOut_ends hout)
  | writeReg n v => exact hostWriteReg_ends_or_refused hin n v
  | readReg n => exact hostReadReg_ends_or_refused n s
  | reset | noMove => exact .inl ⟨_, rfl⟩

/-- R13, R240: where both buffers can be read whole a step ends in a next state or is not admitted. -/
theorem step_ends_or_refused {data out : List Byte} (hin : s.input = some data)
    (hout : s.output = some out) :
    (∃ t, step s = .next t) ∨ ∃ r, step s = .refused r := by
  cases hp : s.pending with
  | nil => exact .inl ⟨s, step_of_no_move hp⟩
  | cons m rest =>
    rw [step_of_move hp]
    exact perform_ends_or_refused (s := s.setPending rest) hin hout m

/-- Settles O58: the invariant makes both buffers readable whole, which is all that a command, a word or
a step needs to end. -/
theorem everyCommandEndsInANextState : Obligations.EveryCommandEndsInANextState := by
  intro s hinv
  obtain ⟨-, -, -, hibuf, hobuf⟩ := hinv
  obtain ⟨data, hin, -⟩ := State.input_of_covers hibuf
  obtain ⟨out, hout, -⟩ := State.output_of_covers hobuf
  exact ⟨exec_ends hin, issue_ends hin, step_ends_or_refused hin hout⟩

end Sys2Proof.Machine
end

section
/-!
PROOF. The halt (`60_exceptions.md` R231): a halted block answers every word with the state it is in, and
of the host's moves only the reset writes one of the items of R39. So a step keeps those items as long as
no reset is to come, and the induction over a run is made once, for any predicate a step keeps.
-/

namespace Sys2Proof.Machine

variable {s t u : State}

/-- R231: a halted block answers every command with the state it is in. -/
theorem exec_of_halted (hs : s.code ≠ 0#4) (i : Instr) : exec i s = .next s := by
  cases i <;> exact unlessHalted_of_halted hs

/-- R85, R231: so it does every word, legal or not. -/
theorem issue_of_halted (hs : s.code ≠ 0#4) (w : Half) : issue w s = .next s := by
  cases hd : decode w with
  | ok i => rw [issue_of_ok hd, exec_of_halted hs]
  | error e => rw [issue_of_error hd, execIllegal, unlessHalted_of_halted hs]

theorem State.SameResults.refl (s : State) : s.SameResults s := ⟨rfl, rfl, rfl, rfl, rfl, rfl, rfl⟩

theorem State.SameResults.trans (h : s.SameResults t) (h' : t.SameResults u) : s.SameResults u := by
  obtain ⟨hcrc, hs1, hs2, hres, hstatus, holen, hobuf⟩ := h
  obtain ⟨hcrc', hs1', hs2', hres', hstatus', holen', hobuf'⟩ := h'
  exact ⟨hcrc'.trans hcrc, hs1'.trans hs1, hs2'.trans hs2, hres'.trans hres, hstatus'.trans hstatus,
    holen'.trans holen, hobuf'.trans hobuf⟩

theorem State.SameResults.code (h : s.SameResults t) : t.code = s.code := by
  obtain ⟨-, -, -, -, hstatus, -⟩ := h
  simp [State.code, hstatus]

theorem State.SameResults.outputByte (h : s.SameResults t) (a : Nat) :
    t.outputByte a = s.outputByte a := by
  obtain ⟨-, -, -, -, -, holen, hobuf⟩ := h
  simp [State.outputByte, holen, hobuf]

/-- R231: on a halted block every move but the reset keeps the results, and no move adds to the list. -/
theorem perform_of_halted {m : HostMove} (hs : s.code ≠ 0#4) (hm : m ≠ .reset)
    (h : perform m s = .next t) : s.SameResults t ∧ t.pending = s.pending := by
  rcases perform_next h with ⟨bs, -, -, rfl⟩ | ⟨out, -, -, rfl⟩ | ⟨v, -, -, hw⟩ | ⟨v, -, -, rfl⟩ |
    ⟨v, -, -, rfl⟩ | ⟨n, v, -, -, -, rfl⟩ | ⟨rfl, -⟩ | ⟨-, rfl⟩
  case inr.inr.inl =>
    rw [issue_of_halted hs] at hw
    cases hw
    exact ⟨.refl s, rfl⟩
  case inr.inr.inr.inr.inr.inr.inl => exact absurd rfl hm
  all_goals exact ⟨.refl _, rfl⟩

/-- R39, R231: a step of a halted block with no reset to come. -/
theorem step_of_halted (hs : s.code ≠ 0#4) (hp : .reset ∉ s.pending) (h : step s = .next t) :
    s.SameResults t ∧ .reset ∉ t.pending := by
  rcases step_next h with ⟨-, rfl⟩ | ⟨m, rest, hmoves, h⟩
  · exact ⟨.refl t, hp⟩
  · obtain ⟨hm, hrest⟩ : .reset ≠ m ∧ .reset ∉ rest := by simpa [hmoves] using hp
    obtain ⟨hres, hpending⟩ := perform_of_halted (s := s.setPending rest) hs hm.symm h
    exact ⟨hres, by rwa [hpending]⟩

/-- A run of n + 1 steps is a step and a run of n. -/
theorem run_succ_next {n : Nat} (h : Host.Core.run core (n + 1) s = .next t) :
    ∃ u, step s = .next u ∧ Host.Core.run core n u = .next t := by
  simp only [Host.Core.run] at h
  split at h
  case h_1 u hu => exact ⟨u, hu, h⟩
  all_goals cases h

/-- What every step keeps every run keeps. -/
theorem run_keeps {P : State → Prop} (hP : ∀ u v, P u → step u = .next v → P v) {n : Nat}
    (hs : P s) (h : Host.Core.run core n s = .next t) : P t := by
  induction n generalizing s with
  | zero => cases h; exact hs
  | succ n ih =>
    obtain ⟨u, hu, h⟩ := run_succ_next h
    exact ih (hP s u hs hu) h

/-- Settles O51: a step keeps "the results are those of the first state and no reset is to come". -/
theorem haltedRunKeepsResults : Obligations.HaltedRunKeepsResults := by
  intro n s t hs hp h
  have hkeeps : s.SameResults t ∧ .reset ∉ t.pending := by
    refine run_keeps (P := fun u => s.SameResults u ∧ .reset ∉ u.pending) ?_ ⟨.refl s, hp⟩ h
    rintro u v ⟨hu, hup⟩ huv
    obtain ⟨hv, hvp⟩ := step_of_halted (by rwa [hu.code]) hup huv
    exact ⟨hu.trans hv, hvp⟩
  obtain ⟨hresults, -⟩ := hkeeps
  have hbytes := hresults.outputByte
  obtain ⟨hcrc, hs1, hs2, hres, hstatus, holen, -⟩ := hresults
  exact ⟨hcrc, hs1, hs2, hres, hstatus, holen, hbytes⟩

end Sys2Proof.Machine
end

section
/-!
PROOF. What a command writes (`10_state.md` R38): the columns CRC, sums and RES of the table as functions of
the command, then one inversion lemma per kind of command. Frames (R38) and the invariant (R39) follow from
the two lemmas alone.
-/

namespace Sys2Proof.Machine

variable {s t : State}

/-- R38: the commands whose row lists CRC. -/
def writesCrc : Instr → Bool
  | .crcInit | .crcByte _ | .crcUpd | .crc32 | .pngChunk | .pngEncode => true
  | .crcRead | .adlInit | .adlByte _ | .adlUpd | .adlRead | .adler32
  | .dflBlock _ | .dflEncode | .zlibWrap => false

/-- R38: the commands whose row lists S1 and S2. -/
def writesSums : Instr → Bool
  | .adlInit | .adlByte _ | .adlUpd | .adler32 | .zlibWrap | .pngEncode => true
  | .crcInit | .crcByte _ | .crcUpd | .crcRead | .crc32 | .adlRead
  | .dflBlock _ | .dflEncode | .pngChunk => false

/-- R38: the commands whose row lists RES. -/
def writesRes : Instr → Bool
  | .crcRead | .crc32 | .adlRead | .adler32 => true
  | .crcInit | .crcByte _ | .crcUpd | .adlInit | .adlByte _ | .adlUpd
  | .dflBlock _ | .dflEncode | .zlibWrap | .pngChunk | .pngEncode => false

/-- `c` and `v` may be what command `i` leaves in CRC and the sums: the old values where R38 does not list
them, and reduced sums (R32, R33) where the old ones are. -/
structure MayLeave (i : Instr) (s : State) (c : Word) (v : Half × Half) : Prop where
  crc : writesCrc i = false → c = s.crc
  sums : writesSums i = false → v = (s.s1, s.s2)
  reduced : s.SumsReduced → v.1.toNat < 65521 ∧ v.2.toNat < 65521

theorem MayLeave.of_crc {i : Instr} {c : Word} (hc : writesCrc i = true) :
    MayLeave i s c (s.s1, s.s2) :=
  ⟨by simp [hc], fun _ => rfl, id⟩

theorem MayLeave.of_sums {i : Instr} {v : Half × Half} (hv : writesSums i = true)
    (hr : s.SumsReduced → v.1.toNat < 65521 ∧ v.2.toNat < 65521) : MayLeave i s s.crc v :=
  ⟨fun _ => rfl, by simp [hv], hr⟩

theorem MayLeave.unchanged (i : Instr) (s : State) : MayLeave i s s.crc (s.s1, s.s2) :=
  ⟨fun _ => rfl, fun _ => rfl, id⟩

/-- CRC and the sums are different registers: the order of their writes does not matter. -/
theorem State.setSums_setCrc (s : State) (c : Word) (v : Half × Half) :
    (s.setSums v).setCrc c = (s.setCrc c).setSums v := rfl

theorem State.chunkType_length (s : State) : s.chunkType.length = 4 := be32_length s.arg0

/-- R38: a checksum command writes CRC, the sums and RES at most, each only where its row lists it. -/
theorem execChecksum_next {i : Instr} (hi : checksumCommand i = true) (h : exec i s = .next t) :
    ∃ c v r, t = ((s.setCrc c).setSums v).setRes r ∧ MayLeave i s c v ∧
      (writesRes i = false → r = s.res) := by
  cases i with
  | crcInit =>
    rcases execCrcInit_next h with ⟨-, rfl⟩ | ⟨-, rfl⟩
    · exact ⟨_, _, _, rfl, .unchanged _ _, fun _ => rfl⟩
    · exact ⟨_, _, _, rfl, .of_crc rfl, fun _ => rfl⟩
  | crcByte b =>
    rcases execCrcByte_next h with ⟨-, rfl⟩ | ⟨-, rfl⟩
    · exact ⟨_, _, _, rfl, .unchanged _ _, fun _ => rfl⟩
    · exact ⟨_, _, _, rfl, .of_crc rfl, fun _ => rfl⟩
  | crcUpd =>
    rcases execCrcUpd_next h with ⟨-, rfl⟩ | ⟨-, data, -, rfl⟩
    · exact ⟨_, _, _, rfl, .unchanged _ _, fun _ => rfl⟩
    · exact ⟨_, _, _, rfl, .of_crc rfl, fun _ => rfl⟩
  | crcRead =>
    rcases execCrcRead_next h with ⟨-, rfl⟩ | ⟨-, rfl⟩
    · exact ⟨_, _, _, rfl, .unchanged _ _, fun _ => rfl⟩
    · exact ⟨_, _, _, rfl, .unchanged _ _, nofun⟩
  | crc32 =>
    rcases execCrc32_next h with ⟨-, rfl⟩ | ⟨-, data, -, rfl⟩
    · exact ⟨_, _, _, rfl, .unchanged _ _, fun _ => rfl⟩
    · exact ⟨_, _, _, rfl, .of_crc rfl, nofun⟩
  | adlInit =>
    rcases execAdlInit_next h with ⟨-, rfl⟩ | ⟨-, rfl⟩
    · exact ⟨_, _, _, rfl, .unchanged _ _, fun _ => rfl⟩
    · exact ⟨_, _, _, rfl, .of_sums rfl fun _ => adlerStart_reduced, fun _ => rfl⟩
  | adlByte b =>
    rcases execAdlByte_next h with ⟨-, rfl⟩ | ⟨-, rfl⟩
    · exact ⟨_, _, _, rfl, .unchanged _ _, fun _ => rfl⟩
    · exact ⟨_, _, _, rfl, .of_sums rfl fun _ => adlStep_reduced _ b, fun _ => rfl⟩
  | adlUpd =>
    rcases execAdlUpd_next h with ⟨-, rfl⟩ | ⟨-, data, -, rfl⟩
    · exact ⟨_, _, _, rfl, .unchanged _ _, fun _ => rfl⟩
    · exact ⟨_, _, _, rfl, .of_sums rfl fun hs => adlRun_reduced hs data, fun _ => rfl⟩
  | adlRead =>
    rcases execAdlRead_next h with ⟨-, rfl⟩ | ⟨-, rfl⟩
    · exact ⟨_, _, _, rfl, .unchanged _ _, fun _ => rfl⟩
    · exact ⟨_, _, _, rfl, .unchanged _ _, nofun⟩
  | adler32 =>
    rcases execAdler32_next h with ⟨-, rfl⟩ | ⟨-, data, -, rfl⟩
    · exact ⟨_, _, _, rfl, .unchanged _ _, fun _ => rfl⟩
    · exact ⟨_, _, _, rfl, .of_sums rfl fun _ => adlRun_reduced adlerStart_reduced data, nofun⟩
  | dflBlock | dflEncode | zlibWrap | pngChunk | pngEncode => cases hi

/-- R38, R229, R54: a framing command does nothing, takes a fault, or completes with an output that fits. -/
theorem execFraming_next {i : Instr} (hi : framingCommand i = true) (h : exec i s = .next t) :
    (s.code ≠ 0#4 ∧ t = s) ∨ (∃ f, t = s.takeFault f) ∨
    (s.code = 0#4 ∧ ∃ c v out, t = ((s.setCrc c).setSums v).commit out ∧ MayLeave i s c v ∧
      out.length ≤ s.cfg.obufCap) := by
  cases i with
  | dflBlock f =>
    rcases execDflBlock_next h with h | ⟨-, -, ht⟩ | ⟨-, -, -, ht⟩ | ⟨hs, -, ho, data, hd, rfl⟩
    · exact .inl h
    · exact .inr (.inl ⟨_, ht⟩)
    · exact .inr (.inl ⟨_, ht⟩)
    · exact .inr (.inr ⟨hs, _, _, _, rfl, .unchanged _ _, by
        rwa [storedBlock_length_eq, State.input_length hd]⟩)
  | dflEncode =>
    rcases execDflEncode_next h with h | ⟨-, -, ht⟩ | ⟨hs, ho, data, hd, rfl⟩
    · exact .inl h
    · exact .inr (.inl ⟨_, ht⟩)
    · exact .inr (.inr ⟨hs, _, _, _, rfl, .unchanged _ _, by
        rwa [deflateStored_length_eq, State.input_length hd]⟩)
  | zlibWrap =>
    rcases execZlibWrap_next h with h | ⟨-, -, ht⟩ | ⟨hs, ho, data, hd, rfl⟩
    · exact .inl h
    · exact .inr (.inl ⟨_, ht⟩)
    · exact .inr (.inr ⟨hs, _, _, _, rfl,
        .of_sums rfl fun _ => adlRun_reduced adlerStart_reduced data, by
        rwa [zlibWrap, zlibFrame_length_eq, State.input_length hd]⟩)
  | pngChunk =>
    rcases execPngChunk_next h with h | ⟨-, -, ht⟩ | ⟨-, -, -, ht⟩ | ⟨hs, -, ho, data, hd, rfl⟩
    · exact .inl h
    · exact .inr (.inl ⟨_, ht⟩)
    · exact .inr (.inl ⟨_, ht⟩)
    · exact .inr (.inr ⟨hs, _, _, _, rfl, .of_crc rfl, by
        rwa [pngChunk, chunkFrame_length_eq s.chunkType_length, State.input_length hd]⟩)
  | pngEncode =>
    rcases execPngEncode_next h with h | ⟨-, -, ht⟩ | ⟨-, -, -, ht⟩ | ⟨-, -, -, -, ht⟩ |
      ⟨hs, hm, -, ho, data, hd, rfl⟩
    · exact .inl h
    · exact .inr (.inl ⟨_, ht⟩)
    · exact .inr (.inl ⟨_, ht⟩)
    · exact .inr (.inl ⟨_, ht⟩)
    · have hpixels : data.length = bytesPerPixel * s.arg0.toNat * s.arg1.toNat :=
        (State.input_length hd).trans hm
      rw [State.setSums_setCrc]
      exact .inr (.inr ⟨hs, _, _, _, rfl,
        ⟨nofun, nofun, fun _ => adlRun_reduced adlerStart_reduced _⟩, by
        rwa [pngEncode_length_eq _ _ _ hpixels]⟩)
  | crcInit | crcByte | crcUpd | crcRead | crc32 | adlInit | adlByte | adlUpd | adlRead | adler32 =>
    cases hi

/-- R39: every command keeps the invariant. -/
theorem exec_keeps_inv {i : Instr} (hinv : s.Inv) (h : exec i s = .next t) : t.Inv := by
  cases hi : checksumCommand i with
  | true =>
    obtain ⟨c, v, r, rfl, hleft, -⟩ := execChecksum_next hi h
    exact ((hinv.setCrc c).setSums (hleft.reduced hinv.1)).setRes r
  | false =>
    rcases execFraming_next (by simp [framingCommand, hi]) h with ⟨-, rfl⟩ | ⟨f, rfl⟩ |
      ⟨-, c, v, out, rfl, hleft, hfits⟩
    · exact hinv
    · exact hinv.takeFault f
    · exact ((hinv.setCrc c).setSums (hleft.reduced hinv.1)).commit hfits

/-- R39: so does every word, legal or not. -/
theorem issue_keeps_inv {w : Half} (hinv : s.Inv) (h : issue w s = .next t) : t.Inv := by
  rcases issue_next h with ⟨i, -, h⟩ | ⟨e, -, h⟩
  · exact exec_keeps_inv hinv h
  · rcases execIllegal_next h with ⟨-, rfl⟩ | ⟨-, rfl⟩
    · exact hinv
    · exact hinv.takeFault _

/-- R37, R39: a block with the values of reset meets the invariant in every run. -/
theorem State.inv_of_reset (hs : s.toBlock = Block.reset) : s.Inv := by
  obtain ⟨b, r⟩ := s
  cases hs
  have hsums : Block.reset.s1.toNat < 65521 ∧ Block.reset.s2.toNat < 65521 := by decide
  have hupper : Block.reset.status.extractLsb' 4 28 = 0 := by decide
  exact ⟨hsums, ⟨Nat.zero_le _, Nat.zero_le _⟩, ⟨hupper, List.mem_cons_self⟩, rfl, rfl⟩

/-- R39: every host move keeps the invariant. -/
theorem perform_keeps_inv {m : HostMove} (hinv : s.Inv) (h : perform m s = .next t) : t.Inv := by
  rcases perform_next h with ⟨bs, -, hfits, rfl⟩ | ⟨out, -, -, rfl⟩ | ⟨v, -, -, hw⟩ | ⟨v, -, -, rfl⟩ |
    ⟨v, -, -, rfl⟩ | ⟨n, v, -, -, -, rfl⟩ | ⟨-, rfl⟩ | ⟨-, rfl⟩
  · exact hinv.loadInput hfits
  · exact hinv.reply _
  · exact issue_keeps_inv hinv hw
  · exact hinv.setArg0 _
  · exact hinv.setArg1 _
  · exact hinv.reply _
  · exact State.inv_of_reset rfl
  · exact hinv

/-- Settles O56: taking a move off the list is none of the invariant's business, and performing one keeps
it. -/
theorem stepKeepsTheInvariant : Obligations.StepKeepsTheInvariant := by
  intro s t hinv h
  rcases step_next h with ⟨-, rfl⟩ | ⟨m, rest, -, h⟩
  · exact hinv
  · exact perform_keeps_inv (hinv.setPending rest) h

/-- Settles O55: both states hold the block of R37, whatever the run. -/
theorem resetMeetsTheInvariant : Obligations.ResetMeetsTheInvariant :=
  fun _ => ⟨State.inv_of_reset rfl, State.inv_of_reset rfl⟩

/-- Settles O57: a buffer of which exactly the bytes below its length are valid is canonical and is read
whole. -/
theorem invariantStatesHaveReadableBuffers : Obligations.InvariantStatesHaveReadableBuffers := by
  intro s hinv
  obtain ⟨-, -, -, hibuf, hobuf⟩ := hinv
  obtain ⟨data, hin, hilen, -⟩ := State.input_of_covers hibuf
  obtain ⟨out, hout, holen, -⟩ := State.output_of_covers hobuf
  exact ⟨Memory.wf_of_covers hibuf, Memory.wf_of_covers hobuf, ⟨data, hin, hilen⟩, ⟨out, hout, holen⟩⟩

/-- Settles O52: the checksum commands' writes are CRC, the sums and RES; the rows of R38 say which. -/
theorem checksumCommandFrame : Obligations.ChecksumCommandFrame := by
  intro i s t hi h
  obtain ⟨c, v, r, rfl, hleft, hres⟩ := execChecksum_next hi h
  refine ⟨rfl, rfl, rfl, rfl, rfl, fun _ => rfl, fun _ => rfl, rfl, rfl, rfl, ?_, ?_, ?_⟩
  · intro hrow
    exact hleft.crc (by rcases hrow with rfl | rfl | rfl | rfl | rfl | ⟨b, rfl⟩ <;> rfl)
  · intro hrow
    have hv := hleft.sums (by rcases hrow with rfl | rfl | rfl | rfl | rfl | ⟨b, rfl⟩ <;> rfl)
    exact Prod.mk.inj hv
  · intro hrow
    exact hres (by rcases hrow with rfl | rfl | rfl | rfl | ⟨b, rfl | rfl⟩ <;> rfl)

/-- R38: of the framing commands only PNG_CHUNK and PNG_ENCODE list CRC. -/
theorem writesCrc_of_framing {i : Instr} (hi : framingCommand i = true) (hc : i ≠ .pngChunk)
    (he : i ≠ .pngEncode) : writesCrc i = false := by
  cases i <;> simp_all [framingCommand, checksumCommand, writesCrc]

/-- R38: of the framing commands only ZLIB_WRAP and PNG_ENCODE list the sums. -/
theorem writesSums_of_framing {i : Instr} (hi : framingCommand i = true) (hz : i ≠ .zlibWrap)
    (he : i ≠ .pngEncode) : writesSums i = false := by
  cases i <;> simp_all [framingCommand, checksumCommand, writesSums]

/-- Settles O53: halted and faulting commands write STATUS at most; a completed one keeps the code 0 it ran
with, and its output replaced the old one whole (R54). -/
theorem framingCommandFrame : Obligations.FramingCommandFrame := by
  intro i s t hi h
  rcases execFraming_next hi h with ⟨hs, rfl⟩ | ⟨f, rfl⟩ | ⟨hs, c, v, out, rfl, hleft, -⟩
  · exact ⟨rfl, rfl, rfl, rfl, fun _ => rfl, rfl, rfl, rfl, fun _ _ => rfl, fun _ _ => ⟨rfl, rfl⟩,
      fun _ => ⟨rfl, rfl, rfl, rfl, fun _ => rfl⟩, fun h0 => absurd h0 hs⟩
  · exact ⟨rfl, rfl, rfl, rfl, fun _ => rfl, rfl, rfl, rfl, fun _ _ => rfl, fun _ _ => ⟨rfl, rfl⟩,
      fun _ => ⟨rfl, rfl, rfl, rfl, fun _ => rfl⟩, fun h0 => by simp at h0⟩
  · exact ⟨rfl, rfl, rfl, rfl, fun _ => rfl, rfl, rfl, rfl,
      fun hc he => hleft.crc (writesCrc_of_framing hi hc he),
      fun hz he => Prod.mk.inj (hleft.sums (writesSums_of_framing hi hz he)),
      fun hcode => absurd hs hcode, fun _ => ⟨rfl, fun a ha => by simpa using ha⟩⟩

end Sys2Proof.Machine
end

section
/-!
PROOF. Two blocks with the same operands (`10_state.md` R38, `90_conflicts.md` C6): a relation between
results, one rule per shared operation of the command template (`40_crc32.md` R120) that keeps it, and with
them what a composite command answers from two states that differ in everything but its operands.
-/

namespace Sys2Proof.Machine

variable {s s' : State}

/-- Whatever two results answer as next states, `R` holds between them. -/
def BothNext (R : State → State → Prop) (o o' : Result) : Prop :=
  ∀ t t', o = .next t → o' = .next t' → R t t'

section Rules

variable {R : State → State → Prop}

theorem BothNext.next (h : R s s') : BothNext R (.next s) (.next s') := by
  intro t t' ht ht'
  cases ht
  cases ht'
  exact h

theorem BothNext.unlessHalted {k k' : Result} (hs : s.code = 0#4) (hs' : s'.code = 0#4)
    (hk : BothNext R k k') : BothNext R (unlessHalted s k) (unlessHalted s' k') := by
  rwa [unlessHalted_of_running hs, unlessHalted_of_running hs']

/-- The same check fails in both, and R need only hold between the two faults, or passes in both. -/
theorem BothNext.check {bad bad' : Bool} {f : FaultCode} {k k' : Result} (hbad : bad' = bad)
    (hfault : R (s.takeFault f) (s'.takeFault f)) (hk : BothNext R k k') :
    BothNext R (check bad f s k) (check bad' f s' k') := by
  subst hbad
  cases bad' with
  | true => exact .next hfault
  | false => exact hk

/-- The same input is read by both, or by neither. -/
theorem BothNext.withInput {k k' : List Byte → Result} (hin : s'.input = s.input)
    (hk : ∀ data, BothNext R (k data) (k' data)) :
    BothNext R (withInput s k) (withInput s' k') := by
  intro t t' ht ht'
  obtain ⟨data, hd, ht⟩ := withInput_next ht
  obtain ⟨data', hd', ht'⟩ := withInput_next ht'
  obtain rfl : data' = data := Option.some.inj (by rw [← hd', hin, hd])
  exact hk _ t t' ht ht'

end Rules

/-- The operands of a composite command (R82 (c) to (e)) and the capacities: the same in both states. -/
structure SameOperands (s s' : State) : Prop where
  cfg : s'.cfg = s.cfg
  arg0 : s'.arg0 = s.arg0
  arg1 : s'.arg1 = s.arg1
  ilen : s'.ilen = s.ilen
  ibuf : s'.ibuf = s.ibuf

theorem SameOperands.input (h : SameOperands s s') : s'.input = s.input := by
  simp [State.input, h.ibuf, h.ilen]

theorem SameOperands.overflows (h : SameOperands s s') (n : Nat) : s'.overflows n = s.overflows n := by
  simp [State.overflows, h.cfg]

theorem SameOperands.chunkType (h : SameOperands s s') : s'.chunkType = s.chunkType := by
  simp [State.chunkType, h.arg0]

theorem SameOperands.width (h : SameOperands s s') : s'.width = s.width := h.arg0

theorem SameOperands.height (h : SameOperands s s') : s'.height = s.height := h.arg1

theorem SameOperands.sizeMismatch (h : SameOperands s s') : s'.sizeMismatch = s.sizeMismatch := by
  simp [State.sizeMismatch, h.ilen, h.width, h.height]

/-- What O54 asks of the states after a composite command: the same code and, on completion, the same
values in everything R38 lists for it. -/
def SameOutcome (i : Instr) (t t' : State) : Prop :=
  t'.code = t.code ∧
    (t.code = 0#4 →
      (framingCommand i = true → t'.olen = t.olen ∧ t'.obuf = t.obuf) ∧
      (i = .crc32 ∨ i = .pngChunk ∨ i = .pngEncode → t'.crc = t.crc) ∧
      (i = .adler32 ∨ i = .zlibWrap ∨ i = .pngEncode → t'.s1 = t.s1 ∧ t'.s2 = t.s2) ∧
      (i = .crc32 ∨ i = .adler32 → t'.res = t.res))

/-- R230: the same fault leaves the same code, and it is not that of a completion. -/
theorem SameOutcome.takeFault (i : Instr) (s s' : State) (f : FaultCode) :
    SameOutcome i (s.takeFault f) (s'.takeFault f) := by
  simp [SameOutcome]

/-- The same checks on the same operands, then the same values written. -/
theorem exec_sameOutcome {i : Instr} (hi : framingCommand i = true ∨ i = .crc32 ∨ i = .adler32)
    (hs : s.code = 0#4) (hs' : s'.code = 0#4) (hop : SameOperands s s') :
    BothNext (SameOutcome i) (exec i s) (exec i s') := by
  have hfault := SameOutcome.takeFault i s s'
  have hcode : s'.code = s.code := hs'.trans hs.symm
  cases i with
  | crc32 | adler32 =>
    refine .unlessHalted hs hs' (.withInput hop.input fun data => .next ?_)
    simp [SameOutcome, hcode, framingCommand, checksumCommand]
  | dflEncode | zlibWrap =>
    refine .unlessHalted hs hs'
      (.check (by rw [hop.overflows, hop.ilen]) (hfault _) (.withInput hop.input fun data => .next ?_))
    simp [SameOutcome, hcode]
  | dflBlock | pngChunk =>
    refine .unlessHalted hs hs' (.check (by rw [hop.ilen]) (hfault _)
      (.check (by rw [hop.overflows, hop.ilen]) (hfault _) (.withInput hop.input fun data => .next ?_)))
    simp [SameOutcome, hcode, hop.chunkType]
  | pngEncode =>
    refine .unlessHalted hs hs' (.check hop.sizeMismatch (hfault _)
      (.check (by rw [hop.width, hop.height]) (hfault _)
        (.check (by rw [hop.overflows, hop.width, hop.height]) (hfault _)
          (.withInput hop.input fun data => .next ?_))))
    simp [SameOutcome, hcode, hop.width, hop.height]
  | crcInit | crcByte | crcUpd | crcRead | adlInit | adlByte | adlUpd | adlRead =>
    simp [framingCommand, checksumCommand] at hi

/-- Settles O54: the operands alone decide a composite command's checks, and the values it writes. -/
theorem compositeResultsIgnoreOldRegisters : Obligations.CompositeResultsIgnoreOldRegisters := by
  intro i s s' t t' hi hs hs' hcfg harg0 harg1 hilen hibuf h h'
  exact exec_sameOutcome hi hs hs' ⟨hcfg, harg0, harg1, hilen, hibuf⟩ t t' h h'

end Sys2Proof.Machine
end

section
/-!
PROOF. The run beside the block (`10_state.md` R20, R23, R36). A change of the run that leaves the
capacities alone goes past every shared operation of the command template (`40_crc32.md` R120), so past
every command; a change of the list of moves goes past every host move. A program on the list is then the
same as a program that is a parameter, by induction over it.
-/

namespace Sys2Proof.Machine

variable {s t : State}

/-- The same block in a changed run. -/
def State.mapRun (f : Run → Run) (s : State) : State := { s with toRun := f s.toRun }

/-- A next state changed; a stop stays the stop it is. -/
def onNext (g : State → State) : Result → Result
  | .next t => .next (g t)
  | .fault r => .fault r
  | .refused r => .refused r

section Template

variable {f : Run → Run}

theorem unlessHalted_mapRun {k k' : Result} (hk : k' = onNext (State.mapRun f) k) :
    unlessHalted (s.mapRun f) k' = onNext (State.mapRun f) (unlessHalted s k) := by
  by_cases hs : s.code = 0#4
  · rwa [unlessHalted_of_running hs, unlessHalted_of_running (s := s.mapRun f) hs]
  · rw [unlessHalted_of_halted hs, unlessHalted_of_halted (s := s.mapRun f) hs]
    rfl

theorem check_mapRun {bad bad' : Bool} {c : FaultCode} {k k' : Result} (hbad : bad' = bad)
    (hk : k' = onNext (State.mapRun f) k) :
    check bad' c (s.mapRun f) k' = onNext (State.mapRun f) (check bad c s k) := by
  subst hbad
  cases bad' with
  | true => rfl
  | false => exact hk

theorem withInput_mapRun {k k' : List Byte → Result}
    (hk : ∀ data, k' data = onNext (State.mapRun f) (k data)) :
    withInput (s.mapRun f) k' = onNext (State.mapRun f) (withInput s k) := by
  have hin : (s.mapRun f).input = s.input := rfl
  unfold withInput
  rw [hin]
  cases s.input with
  | none => rfl
  | some data => exact hk data

/-- R228: the overflow check reads the capacity, and nothing else of the run. -/
theorem overflows_mapRun (hcfg : (f s.toRun).cfg = s.cfg) (n : Nat) :
    (s.mapRun f).overflows n = s.overflows n := by
  simp [State.overflows, State.mapRun, hcfg]

/-- The writes of a completed PNG_ENCODE go past a change of the run. -/
theorem writes_mapRun (v : Half × Half) (c : Word) (out : List Byte) :
    (((s.mapRun f).setSums v).setCrc c).commit out =
      (((s.setSums v).setCrc c).commit out).mapRun f := rfl

/-- R23, R36: a command does the same to the block in every run with the same capacities. -/
theorem exec_mapRun (hcfg : (f s.toRun).cfg = s.cfg) (i : Instr) :
    exec i (s.mapRun f) = onNext (State.mapRun f) (exec i s) := by
  cases i with
  | crcInit | crcByte | crcRead | adlInit | adlByte | adlRead => exact unlessHalted_mapRun rfl
  | crcUpd | crc32 | adlUpd | adler32 =>
    exact unlessHalted_mapRun (withInput_mapRun fun _ => rfl)
  | dflEncode | zlibWrap =>
    exact unlessHalted_mapRun (check_mapRun (overflows_mapRun hcfg _) (withInput_mapRun fun _ => rfl))
  | dflBlock | pngChunk =>
    exact unlessHalted_mapRun (check_mapRun rfl
      (check_mapRun (overflows_mapRun hcfg _) (withInput_mapRun fun _ => rfl)))
  | pngEncode =>
    exact unlessHalted_mapRun (check_mapRun rfl (check_mapRun rfl
      (check_mapRun (overflows_mapRun hcfg _)
        (withInput_mapRun fun _ => congrArg Host.Outcome.next (writes_mapRun _ _ _)))))

theorem issue_mapRun (hcfg : (f s.toRun).cfg = s.cfg) (w : Half) :
    issue w (s.mapRun f) = onNext (State.mapRun f) (issue w s) := by
  cases hd : decode w with
  | ok i => rw [issue_of_ok hd, issue_of_ok hd, exec_mapRun hcfg]
  | error e =>
    rw [issue_of_error hd, issue_of_error hd]
    exact unlessHalted_mapRun rfl

end Template

/-- What answers the same state when put into the run it comes from answers a state in that run. -/
theorem toRun_of_mapRun {o : Result} (hsame : o = onNext (State.mapRun fun _ => s.toRun) o)
    (h : o = .next t) : t.toRun = s.toRun := by
  subst h
  have ht : t = t.mapRun fun _ => s.toRun := Host.Outcome.next.inj hsame
  rw [ht]
  rfl

/-- R36: no command changes the run. -/
theorem exec_keeps_run {i : Instr} (h : exec i s = .next t) : t.toRun = s.toRun :=
  toRun_of_mapRun (exec_mapRun (s := s) (f := fun _ => s.toRun) rfl i) h

theorem issue_keeps_run {w : Half} (h : issue w s = .next t) : t.toRun = s.toRun :=
  toRun_of_mapRun (issue_mapRun (s := s) (f := fun _ => s.toRun) rfl w) h

/-- R7, R36: no host move changes the capacities. -/
theorem perform_keeps_cfg {m : HostMove} (h : perform m s = .next t) : t.cfg = s.cfg := by
  rcases perform_next h with ⟨bs, -, -, rfl⟩ | ⟨out, -, -, rfl⟩ | ⟨v, -, -, hw⟩ | ⟨v, -, -, rfl⟩ |
    ⟨v, -, -, rfl⟩ | ⟨n, v, -, -, -, rfl⟩ | ⟨-, rfl⟩ | ⟨-, rfl⟩
  case inr.inr.inl => rw [issue_keeps_run hw]
  all_goals rfl

theorem hostWriteReg_setPending (n v : Nat) (s : State) (ms : List HostMove) :
    hostWriteReg n v (s.setPending ms) = onNext (State.setPending · ms) (hostWriteReg n v s) := by
  match n with
  | 0 =>
    by_cases hv : v < 2 ^ 16
    · simp only [hostWriteReg, if_pos hv]
      exact issue_mapRun (f := fun r => { r with pending := ms }) rfl _
    · simp only [hostWriteReg, if_neg hv, onNext]
  | 2 | 3 =>
    by_cases hv : v < 2 ^ 32
    · simp only [hostWriteReg, if_pos hv]
      rfl
    · simp only [hostWriteReg, if_neg hv, onNext]
  | 1 | 4 | 5 | 6 | _ + 7 => rfl

/-- R51: no host move reads or changes the moves that follow it. -/
theorem perform_setPending (m : HostMove) (s : State) (ms : List HostMove) :
    perform m (s.setPending ms) = onNext (State.setPending · ms) (perform m s) := by
  cases m with
  | load bs =>
    by_cases hfits : bs.length ≤ s.cfg.ibufCap
    · rw [show perform (.load bs) s = .next (s.loadInput bs) from if_pos hfits]
      exact if_pos hfits
    · rw [show perform (.load bs) s = .refused .loadTooLong from if_neg hfits]
      exact if_neg hfits
  | readOut =>
    simp only [perform, hostReadOut, State.setPending_output]
    cases s.output <;> rfl
  | writeReg n v => exact hostWriteReg_setPending n v s ms
  | readReg n =>
    match n with
    | 0 | 1 | 2 | 3 | 4 | 5 | 6 | _ + 7 => rfl
  | reset | noMove => rfl

/-- R51: the two reads of the host leave the block as it is. -/
theorem perform_read_keeps_block {m : HostMove} (hm : m = .readOut ∨ ∃ n, m = .readReg n)
    (h : perform m s = .next t) : t.toBlock = s.toBlock := by
  rcases hm with rfl | ⟨n, rfl⟩
  · obtain ⟨out, -, rfl⟩ := hostReadOut_next h
    rfl
  · obtain ⟨-, -, v, rfl⟩ := hostReadReg_next h
    rfl

/-- What `runProgram` answers, put back into a run with the moves `rest` still to come. -/
def inRun (cfg : Config) (rest : List HostMove) :
    Host.Outcome (Block × List HostReply) Fault Refusal → Result
  | .next (b, rs) => .next { toBlock := b, toRun := { cfg := cfg, pending := rest, replies := rs } }
  | .fault r => .fault r
  | .refused r => .refused r

/-- R23, R36: the steps that take a program off the list are the run of that program as a parameter. -/
theorem run_eq_runProgram (program rest : List HostMove) (s : State)
    (hp : s.pending = program ++ rest) :
    Host.Core.run core program.length s =
      inRun s.cfg rest (runProgram s.cfg program s.toBlock s.replies) := by
  induction program generalizing s with
  | nil =>
    obtain rfl : s.pending = rest := hp
    rfl
  | cons m program ih =>
    have hstep : core.step s = onNext (State.setPending · (program ++ rest))
        (perform m (s.setPending [])) := by
      rw [← perform_setPending]
      exact step_of_move hp
    have hprogram : runProgram s.cfg (m :: program) s.toBlock s.replies =
      match perform m (s.setPending []) with
      | .next t => runProgram s.cfg program t.toBlock t.replies
      | .fault r => .fault r
      | .refused r => .refused r := rfl
    simp only [List.length_cons, Host.Core.run, hstep, hprogram]
    cases hm : perform m (s.setPending []) with
    | next t =>
      have hcfg : t.cfg = s.cfg := perform_keeps_cfg (s := s.setPending []) hm
      have hrest := ih (t.setPending (program ++ rest)) rfl
      rw [State.setPending_cfg, hcfg] at hrest
      exact hrest
    | fault r => rfl
    | refused r => rfl

/-- Settles O60: a command is the same in every run with the same capacities, a read writes the replies
alone, and the list of moves is the program. -/
theorem runParametersAreNotState : Obligations.RunParametersAreNotState := by
  refine ⟨fun i s t => exec_keeps_run, ?_, fun m s t => perform_read_keeps_block, ?_⟩
  · intro i s t r hr h
    have hmap := exec_mapRun (s := s) (f := fun _ => r) hr i
    rwa [h] at hmap
  · intro program rest s hp
    rw [run_eq_runProgram program rest s hp]
    cases runProgram s.cfg program s.toBlock s.replies <;> rfl

end Sys2Proof.Machine
end

section
/-!
PROOF. Equations for the host's register accesses (`20_memory.md` R51, `10_state.md` R21), and the step that
writes a command word (R22, R23).
-/

namespace Sys2Proof.Machine

variable {s : State}

/-- R22: the host writes a command word to CMD. -/
theorem perform_write_cmd (w : Half) (s : State) :
    perform (.writeReg 0 w.toNat) s = issue w s := by
  simp only [perform, hostWriteReg, if_pos w.isLt, BitVec.ofNat_toNat, BitVec.setWidth_eq]

theorem step_of_command_word {w : Half} {rest : List HostMove}
    (hp : s.pending = .writeReg 0 w.toNat :: rest) : step s = issue w (s.setPending rest) := by
  rw [step_of_move hp, perform_write_cmd]

/-- Settles O6: the step issues the word; what it decodes to decides. -/
theorem stepRunsTheDecodedCommand : Obligations.StepRunsTheDecodedCommand := by
  refine ⟨fun w rest s hp => ⟨?_, ?_, ?_⟩, ?_⟩
  · intro i hd
    rw [step_of_command_word hp, issue_of_ok hd]
    rfl
  · intro e hd hs
    rw [step_of_command_word hp, issue_of_error hd, execIllegal,
      unlessHalted_of_running (s := s.setPending rest) hs]
    rfl
  · intro e hd hs
    rw [step_of_command_word hp, issue_of_error hd, execIllegal,
      unlessHalted_of_halted (s := s.setPending rest) hs]
    rfl
  · intro w i s hd
    have hp : (s.withFetchWord 16 w.toNat).pending = .writeReg 0 w.toNat :: s.pending := by
      simp only [State.withFetchWord, fetchWord, State.setPending_pending, Nat.mod_eq_of_lt w.isLt]
    rw [step_of_command_word hp, issue_of_ok hd]
    rfl

/-- Settles O8: the eleven items are those of `Block.reset`, and an index at or above 0 = ILEN = OLEN
holds no value. -/
theorem resetState : Obligations.ResetState :=
  ⟨rfl, rfl, rfl, rfl, rfl, rfl, rfl, rfl, rfl, fun _ => rfl, fun _ => rfl⟩

/-- Settles O12, register by register, on both sides of each width. -/
theorem hostRegisterWrites : Obligations.HostRegisterWrites := by
  intro s n v
  refine ⟨?_, ?_, ?_, ?_, ?_, ?_, ?_⟩
  · rintro rfl hv
    exact if_pos hv
  · rintro rfl hv
    exact if_pos hv
  · rintro rfl hv
    exact if_pos hv
  · rintro rfl hv
    exact if_neg (Nat.not_lt.mpr hv)
  · rintro (rfl | rfl) hv <;> exact if_neg (Nat.not_lt.mpr hv)
  · rintro (rfl | rfl | rfl | rfl) <;> rfl
  · intro hn
    obtain ⟨k, rfl⟩ := Nat.exists_eq_add_of_le' hn
    rfl

/-- R30, log entry 5: what a read of STATUS returns is CODE as a number. -/
theorem State.statusValue_toNat (s : State) : s.statusValue.toNat = s.code.toNat := by
  simp only [State.statusValue, BitVec.toNat_setWidth]
  exact Nat.mod_eq_of_lt (Nat.lt_of_lt_of_le s.code.isLt (by decide))

/-- Settles O13, register by register. -/
theorem hostRegisterReads : Obligations.HostRegisterReads := by
  intro s n
  have hstatus : perform (.readReg 1) s =
      .next { s with replies := .reg 1 s.code.toNat :: s.replies } := by
    rw [← s.statusValue_toNat]
    rfl
  refine ⟨hstatus, rfl, rfl, rfl, rfl, rfl, rfl, ?_⟩
  intro hn
  obtain ⟨k, rfl⟩ := Nat.exists_eq_add_of_le' hn
  rfl

end Sys2Proof.Machine
end

section
/-!
PROOF. The host's moves on the buffers (`20_memory.md` R52, R53): what a load makes of the input, on both
sides of IBUF_CAP, what a read-out returns, byte by byte, and the step that takes a move off the list (R51).
-/

namespace Sys2Proof.Machine

variable {s : State}

/-- R50, R52: after a load an index holds the byte loaded there, and none at or above the new ILEN. -/
@[simp] theorem State.loadInput_inputByte (s : State) (bs : List Byte) (i : Nat) :
    (s.loadInput bs).inputByte i = bs[i]? := by
  by_cases hi : i < bs.length
  · simp [State.inputByte, hi]
  · simp [State.inputByte, hi, Memory.unlisted]

/-- R50, R53: every index below OLEN holds the byte that the whole output has there. -/
theorem State.outputByte_of_output {out : List Byte} (hout : s.output = some out) {i : Nat}
    (hi : i < s.olen) : s.outputByte i = out[i]? := by
  rw [State.outputByte, if_pos hi]
  simpa using Memory.readSeq_read hout i hi

/-- R52: a load that fits is admitted. -/
theorem perform_load_of_fits {bs : List Byte} (hfits : bs.length ≤ s.cfg.ibufCap) :
    perform (.load bs) s = .next (s.loadInput bs) :=
  if_pos hfits

/-- R52: a longer load is not. -/
theorem perform_load_of_too_long {bs : List Byte} (hlong : s.cfg.ibufCap < bs.length) :
    perform (.load bs) s = .refused .loadTooLong :=
  if_neg (Nat.not_le.mpr hlong)

/-- R53: a read-out of an output that can be read whole. -/
theorem perform_readOut {out : List Byte} (hout : s.output = some out) :
    perform .readOut s = .next (s.reply (.out out)) := by
  simp only [perform, hostReadOut, hout]

/-- Settles O7: a step takes the head of the list and performs it; a move that is no move leaves what is
left, and a reset puts back the block alone. -/
theorem stepTakesTheNextMove : Obligations.StepTakesTheNextMove := by
  refine ⟨fun s => step_of_no_move, ?_, fun s m rest => step_of_move, ?_⟩
  · intro s rest hp
    rw [step_of_move hp]
    rfl
  · intro s t h
    obtain rfl : s.resetBlock = t := Host.Outcome.next.inj h
    exact ⟨rfl, rfl, rfl⟩

/-- Settles O10: the load that fits makes the input the bytes loaded; the other is not admitted. -/
theorem hostLoadReplacesTheInput : Obligations.HostLoadReplacesTheInput := by
  intro bs s
  refine ⟨fun hfits => ⟨s.loadInput bs, perform_load_of_fits hfits, ?_⟩, perform_load_of_too_long⟩
  exact ⟨rfl, s.loadInput_inputByte bs, s.loadInput_input bs, rfl⟩

/-- Settles O11: the reply is the output read whole, of length OLEN and byte by byte what OBUF holds. -/
theorem hostReadOutReturnsTheOutput : Obligations.HostReadOutReturnsTheOutput := by
  intro s out hout
  exact ⟨perform_readOut hout, State.output_length hout, fun _ hi => State.outputByte_of_output hout hi⟩

end Sys2Proof.Machine
end

section
/-!
PROOF. The command word and the decoder (`30_encoding.md` Part A, R80 to R86): a word is its two fields, and
a word that decodes carries the fields of its command, so decoding and encoding undo each other.
-/

namespace Sys2Proof

/-- R80: a word is put together from its two fields. -/
theorem word_eq_fields (w : Half) :
    w = (opField w).setWidth 16 <<< 8 ||| (immField w).setWidth 16 := by
  apply BitVec.eq_of_getLsbD_eq
  intro k hk
  rcases Nat.lt_or_ge k 8 with hlow | hhigh
  · simp [opField, immField, hk, hlow]
  · have hop : k - 8 < 8 := by omega
    simp [opField, immField, hk, Nat.not_lt.mpr hhigh, hop, Nat.add_sub_cancel' hhigh]

/-- R86: a word is a command's word when it has its operation code and its immediate. -/
theorem encode_eq_iff {i : Instr} {w : Half} :
    encode i = w ↔ opField w = opcode i ∧ immField w = i.imm8 := by
  constructor
  · rintro rfl
    exact ⟨opField_encode i, immField_encode i⟩
  · rintro ⟨hop, himm⟩
    rw [word_eq_fields w, hop, himm]
    rfl

/-- R81: the commands of format N are spelled with immediate 0. -/
theorem Instr.imm8_of_format_none {i : Instr} (h : i.format = .none) : i.imm8 = 0#8 := by
  cases i with
  | crcByte | adlByte | dflBlock => cases h
  | _ => rfl

/-- R84: a command's word passes the format check under its operation code. -/
theorem decode_encode (i : Instr) : decode (encode i) = .ok i := by
  unfold decode
  simp only [opField_encode, immField_encode]
  cases i with
  | dflBlock f => cases f <;> rfl
  | _ => rfl

/-- R83, R84: a legal word has the operation code and the immediate of the command it decodes to. -/
theorem fields_of_decode {w : Half} {i : Instr} (h : decode w = .ok i) :
    opField w = opcode i ∧ immField w = i.imm8 := by
  unfold decode at h
  dsimp only at h
  split at h
  case h_2 hop | h_7 hop =>
    cases h
    exact ⟨BitVec.eq_of_toNat_eq hop, rfl⟩
  case h_11 hop =>
    obtain ⟨hreserved, rfl⟩ := decodeFlag_eq_ok.mp h
    exact ⟨BitVec.eq_of_toNat_eq hop, flag_immediate _ hreserved⟩
  case h_16 => cases h
  all_goals
    rename_i hop
    obtain ⟨himm, rfl⟩ := decodeNone_eq_ok.mp h
    exact ⟨BitVec.eq_of_toNat_eq hop, himm⟩

/-- R84, R86: a word decodes to a command exactly when it is that command's word. -/
theorem decode_eq_ok_iff {w : Half} {i : Instr} : decode w = .ok i ↔ encode i = w := by
  constructor
  · exact fun h => encode_eq_iff.mpr (fields_of_decode h)
  · rintro rfl
    exact decode_encode i

/-- Settles O1: decoding to a command and being its word are the same. -/
theorem decodeAndEncodeAgree : Obligations.DecodeAndEncodeAgree :=
  ⟨decode_encode, fun _ _ => decode_eq_ok_iff.mp⟩

/-- Settles O3: each of the words is the word of the command listed with it. -/
theorem writtenOutWordsDecode : Obligations.WrittenOutWordsDecode :=
  ⟨decode_encode .crcInit, decode_encode (.crcByte 0xFF), decode_encode .crc32,
    decode_encode (.adlByte 0xA5), decode_encode .adlRead, decode_encode (.dflBlock false),
    decode_encode (.dflBlock true), decode_encode .dflEncode, decode_encode .zlibWrap,
    decode_encode .pngChunk, decode_encode .pngEncode⟩

/-- Settles O4: the fields of a word, and those of a command's word. -/
theorem wordIsOpcodeThenImmediate : Obligations.WordIsOpcodeThenImmediate :=
  ⟨word_eq_fields, fun i => ⟨opField_encode i, immField_encode i, Instr.imm8_of_format_none⟩⟩

end Sys2Proof
end

section
/-!
PROOF. The opcode map (`30_encoding.md` R83). Mask and match of a row come to a condition on the two fields
of a word: the operation code is the row's, and the row's format admits the immediate (R81). The rows have
different operation codes, so no two of them select the same word.
-/

namespace Sys2Proof

/-- R81, R83: the bits of the immediate that the mask of a row of this format fixes. -/
def Format.fixedBits : Format → Byte
  | .none => 0xFF
  | .byte => 0x00
  | .flag => 0xFE

/-- R81: a format admits an immediate in which those bits are 0. -/
theorem Format.admits_iff {f : Format} {imm : Byte} :
    f.admits imm = true ↔ imm &&& f.fixedBits = 0#8 := by
  cases f with
  | none =>
    have hall : imm &&& 0xFF#8 = imm := BitVec.and_allOnes
    simp [Format.admits, Format.fixedBits, hall]
  | byte => simp [Format.admits, Format.fixedBits]
  | flag => simp [Format.admits, Format.fixedBits]

/-- R81: an immediate that format F admits passes the decoder's check of bits 7:1. -/
theorem Format.reserved_of_admits_flag {imm : Byte} (h : Format.flag.admits imm = true) :
    imm.extractLsb' 1 7 = 0#7 := by
  have hfixed : imm &&& 0xFE#8 = 0#8 := Format.admits_iff.mp h
  calc imm.extractLsb' 1 7
      = imm.extractLsb' 1 7 &&& (0xFE#8).extractLsb' 1 7 := BitVec.and_allOnes.symm
    _ = (imm &&& 0xFE#8).extractLsb' 1 7 := BitVec.extractLsb'_and.symm
    _ = 0#7 := by rw [hfixed]; rfl

theorem opField_and (v w : Half) : opField (v &&& w) = opField v &&& opField w :=
  BitVec.extractLsb'_and

theorem immField_and (v w : Half) : immField (v &&& w) = immField v &&& immField w :=
  BitVec.extractLsb'_and

/-- R80: words with the same two fields are the same. -/
theorem eq_iff_fields {v w : Half} : v = w ↔ opField v = opField w ∧ immField v = immField w := by
  constructor
  · rintro rfl
    exact ⟨rfl, rfl⟩
  · rintro ⟨hop, himm⟩
    rw [word_eq_fields v, word_eq_fields w, hop, himm]

/-- R83, row by row: the mask fixes the operation code and what the format fixes of the immediate, and the
match has 0 there. -/
theorem fields_of_row {r : OpcodeRow} (hr : r ∈ opcodeTable) :
    opField r.mask = 0xFF#8 ∧ immField r.mask = r.format.fixedBits ∧ immField r.pattern = 0#8 := by
  revert r
  decide

/-- R81, R83: what it is for a row of the opcode map to select a word. -/
theorem selects_iff {r : OpcodeRow} (hr : r ∈ opcodeTable) {w : Half} :
    r.selects w = true ↔ opField w = opField r.pattern ∧ r.format.admits (immField w) = true := by
  obtain ⟨hop, himm, hzero⟩ := fields_of_row hr
  have hall : opField w &&& 0xFF#8 = opField w := BitVec.and_allOnes
  simp only [OpcodeRow.selects, beq_iff_eq, eq_iff_fields, opField_and, immField_and, hop, himm, hzero,
    hall, Format.admits_iff]

/-- R83: "No two rows overlap". -/
theorem row_unique {r r' : OpcodeRow} {w : Half} (hr : r ∈ opcodeTable) (hr' : r' ∈ opcodeTable)
    (hw : r.selects w = true) (hw' : r'.selects w = true) : r = r' := by
  have hcodes : (opcodeTable.map fun r => opField r.pattern).Nodup := by decide
  obtain ⟨hop, -⟩ := (selects_iff hr).mp hw
  obtain ⟨hop', -⟩ := (selects_iff hr').mp hw'
  exact List.inj_on_of_nodup_map hcodes hr hr' (hop.symm.trans hop')

/-- R83: the match of a row is the word of a command of the row's format. -/
theorem exists_decode_pattern {r : OpcodeRow} (hr : r ∈ opcodeTable) :
    ∃ i, decode r.pattern = .ok i ∧ i.format = r.format := by
  have hrows : ∀ r ∈ opcodeTable, (decode r.pattern).toOption.map Instr.format = some r.format := by
    decide
  have h := hrows r hr
  cases hd : decode r.pattern with
  | ok i => exact ⟨i, rfl, by simpa [hd, Except.toOption] using h⟩
  | error e => simp [hd, Except.toOption] at h

/-- R81: every immediate that a command's format admits is that of a command with the same operation
code. -/
theorem exists_command_of_admits (i : Instr) {imm : Byte} (h : i.format.admits imm = true) :
    ∃ j, opcode j = opcode i ∧ j.imm8 = imm := by
  cases i with
  | crcByte => exact ⟨.crcByte imm, rfl, rfl⟩
  | adlByte => exact ⟨.adlByte imm, rfl, rfl⟩
  | dflBlock =>
    exact ⟨.dflBlock (imm.getLsbD 0), rfl, (flag_immediate imm (Format.reserved_of_admits_flag h)).symm⟩
  | _ => exact ⟨_, rfl, (beq_iff_eq.mp h).symm⟩

/-- R83: a word that a row selects is a command's word. -/
theorem exists_decode_of_selects {r : OpcodeRow} {w : Half} (hr : r ∈ opcodeTable)
    (hw : r.selects w = true) : ∃ i, decode w = .ok i := by
  obtain ⟨hop, hadmits⟩ := (selects_iff hr).mp hw
  obtain ⟨i, hd, hformat⟩ := exists_decode_pattern hr
  obtain ⟨hi, -⟩ := fields_of_decode hd
  obtain ⟨j, hj, himm⟩ := exists_command_of_admits i (hformat ▸ hadmits)
  exact ⟨j, decode_eq_ok_iff.mpr (encode_eq_iff.mpr ⟨by rw [hop, hi, hj], himm.symm⟩)⟩

/-- R83: the laws of the rows of the opcode map, for every command. -/
theorem row_selects_encode : ∀ i : Instr, Laws.TableRow.Statement i
  | .crcInit => Laws.TableRow.crcInit
  | .crcByte b => Laws.TableRow.crcByte b
  | .crcUpd => Laws.TableRow.crcUpd
  | .crcRead => Laws.TableRow.crcRead
  | .crc32 => Laws.TableRow.crc32
  | .adlInit => Laws.TableRow.adlInit
  | .adlByte b => Laws.TableRow.adlByte b
  | .adlUpd => Laws.TableRow.adlUpd
  | .adlRead => Laws.TableRow.adlRead
  | .adler32 => Laws.TableRow.adler32
  | .dflBlock f => Laws.TableRow.dflBlock f
  | .dflEncode => Laws.TableRow.dflEncode
  | .zlibWrap => Laws.TableRow.zlibWrap
  | .pngChunk => Laws.TableRow.pngChunk
  | .pngEncode => Laws.TableRow.pngEncode

/-- R83: a legal word is selected by a row with the mnemonic and the format of its command. -/
theorem exists_row_of_decode {w : Half} {i : Instr} (h : decode w = .ok i) :
    ∃ r ∈ opcodeTable, r.mnemonic = i.mnemonic ∧ r.format = i.format ∧ r.selects w = true := by
  obtain rfl := decode_eq_ok_iff.mp h
  obtain ⟨-, hrow⟩ := row_selects_encode i
  exact hrow

/-- Settles O2: a command's word is selected by the command's row, and by no other; a word that a row
selects is a command's word. -/
theorem legalWordsAreThoseARowSelects : Obligations.LegalWordsAreThoseARowSelects := by
  refine ⟨fun w => ⟨?_, ?_⟩, ?_, fun w r r' => row_unique⟩
  · rintro ⟨i, hd⟩
    obtain ⟨r, hr, -, -, hw⟩ := exists_row_of_decode hd
    exact ⟨r, hr, hw⟩
  · rintro ⟨r, hr, hw⟩
    exact exists_decode_of_selects hr hw
  · intro w i r hd hr hw
    obtain ⟨r', hr', hmnemonic, hformat, hw'⟩ := exists_row_of_decode hd
    obtain rfl := row_unique hr hr' hw hw'
    exact ⟨hmnemonic.symm, hformat.symm⟩

end Sys2Proof
end

section
/-!
PROOF. The lengths of the outputs (`30_encoding.md` R99), put together from the length lemmas of
Laws/Formats.
-/

namespace Sys2Proof.Machine

/-- R99, R162: the number of stored blocks is the rounded-up quotient, and at least one. -/
theorem nseg_eq_max (n : Nat) : nseg n = max 1 ((n + 65534) / 65535) := by
  simp only [nseg, maxStored]
  split <;> omega

/-- Settles O35: each clause is the length lemma of its format. -/
theorem outputLengths : Obligations.OutputLengths :=
  ⟨nseg_eq_max, storedBlock_length_eq, deflateStored_length_eq,
    fun s => zlibFrame_length_eq s (adler32 s),
    fun t d ht => chunkFrame_length_eq ht d (crc32 (t ++ d)), pngEncode_length_eq⟩

end Sys2Proof.Machine
end

section
/-!
PROOF. Command lines and pseudo-instructions (`30_encoding.md` R86, R87): the steps that take command words
off the list of moves issue the commands one after the other, and byte commands so issued feed their bytes
in order (`40_crc32.md` R123, R125; `41_adler32.md` R143, R145).
-/

namespace Sys2Proof.Machine

variable {s : State}

/-- R23: no command reads or changes the moves that follow it. -/
theorem exec_setPending (i : Instr) (s : State) (ms : List HostMove) :
    exec i (s.setPending ms) = onNext (State.setPending · ms) (exec i s) :=
  exec_mapRun (f := fun r => { r with pending := ms }) rfl i

/-- R22, R86: the step that takes a command line issues its command. -/
theorem step_of_command {i : Instr} {rest : List HostMove}
    (hp : s.pending = commandMove i :: rest) : step s = exec i (s.setPending rest) := by
  rw [step_of_command_word hp, issue_of_ok (decode_encode i)]

/-- R23, R86: the steps that take command lines off the list issue their commands in order. -/
theorem run_of_commands {is : List Instr} {rest : List HostMove}
    (hp : s.pending = is.map commandMove ++ rest) :
    Host.Core.run core is.length s = execAll is (s.setPending rest) := by
  induction is generalizing s with
  | nil =>
    obtain rfl : s.pending = rest := hp
    rfl
  | cons i is ih =>
    have hstep : core.step s =
        onNext (State.setPending · (is.map commandMove ++ rest)) (exec i s) := by
      rw [← exec_setPending]
      exact step_of_command hp
    simp only [List.length_cons, Host.Core.run, hstep, execAll, exec_setPending]
    cases exec i s with
    | next t => exact ih (s := t.setPending (is.map commandMove ++ rest)) rfl
    | fault r => rfl
    | refused r => rfl

/-- R87, R125: the commands of CRC_STR, issued in order to a running block. -/
theorem execAll_pseudoCrcStr (hs : s.code = 0#4) (bs : List Byte) :
    execAll (pseudoCrcStr bs) s = .next (s.setCrc (crcRun s.crc bs)) := by
  induction bs generalizing s with
  | nil => rfl
  | cons b bs ih =>
    have hexec : exec (.crcByte b) s = .next (s.setCrc (crcStep s.crc b)) :=
      unlessHalted_of_running hs
    simp only [pseudoCrcStr, List.map_cons, execAll, hexec]
    exact ih (s := s.setCrc (crcStep s.crc b)) hs

/-- R87, R145: the commands of ADL_STR, issued in order to a running block. -/
theorem execAll_pseudoAdlStr (hs : s.code = 0#4) (bs : List Byte) :
    execAll (pseudoAdlStr bs) s = .next (s.setSums (adlRun (s.s1, s.s2) bs)) := by
  induction bs generalizing s with
  | nil => rfl
  | cons b bs ih =>
    have hexec : exec (.adlByte b) s = .next (s.setSums (adlStep (s.s1, s.s2) b)) :=
      unlessHalted_of_running hs
    simp only [pseudoAdlStr, List.map_cons, execAll, hexec]
    exact ih (s := s.setSums (adlStep (s.s1, s.s2) b)) hs

/-- Settles O59: a string's moves issue its byte commands in order; the other two are one word each. -/
theorem pseudoInstructionsRunAsExpanded : Obligations.PseudoInstructionsRunAsExpanded := by
  refine ⟨?_, ?_, rfl, rfl⟩
  · intro bs rest s hs hp
    have hlength : (pseudoCrcStr bs).length = bs.length := List.length_map _
    rw [← hlength, run_of_commands hp, execAll_pseudoCrcStr (s := s.setPending rest) hs]
    rfl
  · intro bs rest s hs hp
    have hlength : (pseudoAdlStr bs).length = bs.length := List.length_map _
    rw [← hlength, run_of_commands hp, execAll_pseudoAdlStr (s := s.setPending rest) hs]
    rfl

end Sys2Proof.Machine
end

section
/-!
PROOF. The CRC step (`40_crc32.md` R121, R122, R129 (c)). A round is linear over exclusive-or, and it sends no
state but 0 to 0, because it puts the bit it shifts out into bit 31; so a step is a bijection. A state splits
into its low byte and the bits above, which eight rounds only shift: that is the table-driven form.
-/

namespace Sys2Proof.Machine

/-- R121: what a round adds after its shift depends on the bit shifted out alone. -/
theorem crcRound_eq (c : Word) :
    crcRound c = (c >>> 1) ^^^ (if c.getLsbD 0 then crcPoly else 0#32) := by
  unfold crcRound
  split
  · rfl
  · exact BitVec.xor_zero.symm

theorem crcRound_of_low_bit_false {c : Word} (h : c.getLsbD 0 = false) : crcRound c = c >>> 1 :=
  if_neg (Bool.eq_false_iff.mp h)

/-- A round is linear over exclusive-or. -/
theorem crcRound_xor (c d : Word) : crcRound (c ^^^ d) = crcRound c ^^^ crcRound d := by
  simp only [crcRound_eq, BitVec.ushiftRight_xor_distrib, BitVec.getLsbD_xor]
  have hadded : (if (c.getLsbD 0 ^^ d.getLsbD 0) then crcPoly else 0#32) =
      (if c.getLsbD 0 then crcPoly else 0#32) ^^^ (if d.getLsbD 0 then crcPoly else 0#32) := by
    cases c.getLsbD 0 <;> cases d.getLsbD 0 <;> decide
  rw [hadded]
  ac_rfl

/-- The polynomial has bit 31 and the shifted state does not. -/
theorem crcRound_top_bit (c : Word) : (crcRound c).getLsbD 31 = c.getLsbD 0 := by
  have hpoly : crcPoly.getLsbD 31 = true := by decide
  rw [crcRound_eq]
  cases hlow : c.getLsbD 0 <;> simp [hpoly]

theorem eq_zero_of_crcRound_eq_zero {c : Word} (h : crcRound c = 0#32) : c = 0#32 := by
  have hlow : c.getLsbD 0 = false := by rw [← crcRound_top_bit, h]; rfl
  have hshift : c >>> 1 = 0#32 := by rw [← crcRound_of_low_bit_false hlow, h]
  apply BitVec.eq_of_getLsbD_eq
  intro k _
  cases k with
  | zero => simpa using hlow
  | succ k => simpa [Nat.add_comm] using congrArg (·.getLsbD k) hshift

theorem crcRound_injective : Function.Injective crcRound := by
  intro c d h
  have hzero : crcRound (c ^^^ d) = 0#32 := by rw [crcRound_xor, h, BitVec.xor_self]
  exact BitVec.xor_eq_zero_iff.mp (eq_zero_of_crcRound_eq_zero hzero)

theorem crcIterate_injective (n : Nat) : Function.Injective (crcIterate n) := by
  induction n with
  | zero => exact Function.injective_id
  | succ n ih => exact ih.comp crcRound_injective

/-- R122: the byte's entry and the rounds can both be undone. -/
theorem crcStep_injective (b : Byte) : Function.Injective fun c : Word => crcStep c b :=
  (crcIterate_injective crcRounds).comp fun _ _ => (BitVec.xor_left_inj _).mp

/-- Settles O15: the rounds are those of `crcIterate`, and an injective map of the finitely many states is a
bijection. -/
theorem crcStepIsEightRoundsAndABijection : Obligations.CrcStepIsEightRoundsAndABijection :=
  ⟨fun _ _ => rfl, fun b => Finite.injective_iff_bijective.mp (crcStep_injective b)⟩

/-- Settles O14: the polynomial is the one of R6. -/
theorem crcRoundShiftsAndAdds : Obligations.CrcRoundShiftsAndAdds := fun _ => rfl

theorem crcIterate_xor (n : Nat) (c d : Word) :
    crcIterate n (c ^^^ d) = crcIterate n c ^^^ crcIterate n d := by
  induction n generalizing c d with
  | zero => rfl
  | succ n ih => simp only [crcIterate, crcRound_xor, ih]

/-- `n` rounds on a state whose low `n` bits are 0 only shift it. -/
theorem crcIterate_of_low_bits_false {n : Nat} {c : Word} (h : ∀ k < n, c.getLsbD k = false) :
    crcIterate n c = c >>> n := by
  induction n generalizing c with
  | zero => exact (BitVec.ushiftRight_zero c).symm
  | succ n ih =>
    have hlow : ∀ k < n, (c >>> 1).getLsbD k = false := by
      intro k hk
      simpa [Nat.add_comm] using h (k + 1) (by omega)
    rw [crcIterate, crcRound_of_low_bit_false (h 0 (by omega)), ih hlow, ← BitVec.shiftRight_add,
      Nat.add_comm]

/-- `n` rounds shift out the low `n` bits, and add what they make of those bits alone. -/
theorem crcIterate_split {n : Nat} {c low : Word}
    (hlow : ∀ k, low.getLsbD k = (decide (k < n) && c.getLsbD k)) :
    crcIterate n c = (c >>> n) ^^^ crcIterate n low := by
  have hzero : ∀ k < n, (c ^^^ low).getLsbD k = false := by
    intro k hk
    simp [hlow, hk]
  have hshift : low >>> n = 0#32 := by
    apply BitVec.eq_of_getLsbD_eq
    intro k _
    simp [hlow]
  calc crcIterate n c
      = crcIterate n ((c ^^^ low) ^^^ low) := by
        rw [BitVec.xor_assoc, BitVec.xor_self, BitVec.xor_zero]
    _ = (c ^^^ low) >>> n ^^^ crcIterate n low := by
        rw [crcIterate_xor, crcIterate_of_low_bits_false hzero]
    _ = (c >>> n) ^^^ crcIterate n low := by
        rw [BitVec.ushiftRight_xor_distrib, hshift, BitVec.xor_zero]

theorem byteAsWord_lowByte_getLsbD (c : Word) (k : Nat) :
    (byteAsWord (c.extractLsb' 0 8)).getLsbD k = (decide (k < 8) && c.getLsbD k) := by
  rcases Nat.lt_or_ge k 8 with hk | hk
  · have hk32 : k < 32 := by omega
    simp [byteAsWord, hk, hk32]
  · simp [byteAsWord, Nat.not_lt.mpr hk]

/-- A byte that enters the state does not reach the bits that eight rounds leave. -/
theorem byteAsWord_ushiftRight_eight (b : Byte) : byteAsWord b >>> 8 = 0#32 := by
  apply BitVec.eq_of_getLsbD_eq
  intro k _
  simp [byteAsWord]

/-- R129 (c): the table-driven step is the step. -/
theorem crcStepByTable_eq (c : Word) (b : Byte) : crcStepByTable c b = crcStep c b := by
  have hsplit : crcStep c b =
      ((c ^^^ byteAsWord b) >>> 8) ^^^ crcTable ((c ^^^ byteAsWord b).extractLsb' 0 8) :=
    crcIterate_split (byteAsWord_lowByte_getLsbD (c ^^^ byteAsWord b))
  rw [hsplit, BitVec.ushiftRight_xor_distrib, byteAsWord_ushiftRight_eight, BitVec.xor_zero]
  rfl

/-- R129 (c): an entry of the table is the step from the state 0. -/
theorem crcTable_eq (i : Byte) : crcTable i = crcStep 0#32 i := by
  rw [crcStep, BitVec.zero_xor]
  rfl

end Sys2Proof.Machine
end

section
/-!
PROOF. The two checksums as functions of a byte sequence (`40_crc32.md` R123, `41_adler32.md` R143): the
folds chain over concatenation, and an Adler checksum is its second sum above its first.
-/

namespace Sys2Proof.Machine

/-- R129 (a): a CRC may be built from pieces in order. -/
theorem crcRun_append (c : Word) (s t : List Byte) : crcRun c (s ++ t) = crcRun (crcRun c s) t := by
  induction s generalizing c with
  | nil => rfl
  | cons b s ih => exact ih (crcStep c b)

/-- R149 (a): so may a pair of Adler sums. -/
theorem adlRun_append (v : Half × Half) (s t : List Byte) :
    adlRun v (s ++ t) = adlRun (adlRun v s) t := by
  induction s generalizing v with
  | nil => rfl
  | cons b s ih => exact ih (adlStep v b)

/-- R143, R147: `(s2 << 16) | s1` is the two sums side by side. -/
theorem adlFinish_eq_append (v : Half × Half) : adlFinish v = v.2 ++ v.1 :=
  BitVec.setWidth_append_eq_shiftLeft_setWidth_or.symm.trans (BitVec.setWidth_eq _)

/-- Settles O17: the folds' equations are their definitions, and the published values (R123, R143) are
computed. -/
theorem checksumsAreFoldsAndMatchPublishedValues :
    Obligations.ChecksumsAreFoldsAndMatchPublishedValues := by
  have hpublished :
      crc32 [0x31, 0x32, 0x33, 0x34, 0x35, 0x36, 0x37, 0x38, 0x39] = 0xCBF43926#32 ∧
      crc32 [] = 0#32 ∧ adler32 [] = 1#32 ∧ adler32 [0x61] = 0x00620062#32 := by
    decide +kernel
  exact ⟨crcRun_nil, crcRun_cons, fun s => crcFinish_eq _, adlRun_nil, adlRun_cons,
    fun s => adlFinish_eq_append _, crcRun_append, adlRun_append, hpublished⟩

end Sys2Proof.Machine
end

section
/-!
PROOF. The commands of family 1 on a running block (`40_crc32.md` R124 to R128): one equation each, which the
halt check gives alone or with a readable input.
-/

namespace Sys2Proof.Machine

variable {s : State} {data : List Byte}

/-- R124. -/
theorem exec_crcInit_of_running (hs : s.code = 0#4) : exec .crcInit s = .next (s.setCrc crcStart) :=
  unlessHalted_of_running hs

/-- R125. -/
theorem exec_crcByte_of_running (hs : s.code = 0#4) (b : Byte) :
    exec (.crcByte b) s = .next (s.setCrc (crcStep s.crc b)) :=
  unlessHalted_of_running hs

/-- R126. -/
theorem exec_crcUpd_of_running (hs : s.code = 0#4) (hin : s.input = some data) :
    exec .crcUpd s = .next (s.setCrc (crcRun s.crc data)) :=
  (unlessHalted_of_running hs).trans (withInput_of_some hin)

/-- R127. -/
theorem exec_crcRead_of_running (hs : s.code = 0#4) :
    exec .crcRead s = .next (s.setRes (crcFinish s.crc)) :=
  unlessHalted_of_running hs

/-- R128. -/
theorem exec_crc32_of_running (hs : s.code = 0#4) (hin : s.input = some data) :
    exec .crc32 s =
      .next ((s.setCrc (crcRun crcStart data)).setRes (crcFinish (crcRun crcStart data))) :=
  (unlessHalted_of_running hs).trans (withInput_of_some hin)

/-- Settles O18: the halt check passes, and CRC takes the initial state of R6. -/
theorem crcInitSetsTheInitialState : Obligations.CrcInitSetsTheInitialState :=
  ⟨by decide, fun _ => exec_crcInit_of_running⟩

/-- Settles O19: the immediate is the byte, and the halt check passes. -/
theorem crcByteFeedsOneByte : Obligations.CrcByteFeedsOneByte :=
  fun b => ⟨rfl, fun _ hs => exec_crcByte_of_running hs b⟩

/-- Settles O20: the halt check passes, and the input is read whole. -/
theorem crcUpdFeedsTheInput : Obligations.CrcUpdFeedsTheInput :=
  ⟨by decide, fun _ _ => exec_crcUpd_of_running⟩

/-- Settles O21: the halt check passes, and RES alone is written. -/
theorem crcReadWritesTheFinishedChecksum : Obligations.CrcReadWritesTheFinishedChecksum :=
  ⟨by decide, fun _ => exec_crcRead_of_running⟩

/-- Settles O22: the halt check passes, and the input is read whole. -/
theorem crc32IsTheWholeContract : Obligations.Crc32IsTheWholeContract :=
  ⟨by decide, fun _ _ => exec_crc32_of_running⟩

/-- R14, R129 (c): CRC_BYTE computed by the table is CRC_BYTE, on a running block and on a halted one. -/
theorem crcByte_by_table_conforms (b : Byte) : Conforms (.crcByte b) fun s =>
    if s.code = 0#4 then .next { s with crc := crcStepByTable s.crc b } else .next s := by
  intro s
  by_cases hs : s.code = 0#4
  · rw [exec_crcByte_of_running hs, ← crcStepByTable_eq]
    exact if_pos hs
  · rw [exec_of_halted hs]
    exact if_neg hs

/-- Settles O16: eight rounds shift out the low byte and add its table entry, which the spot values show. -/
theorem crcTableDrivenFormAgrees : Obligations.CrcTableDrivenFormAgrees := by
  refine ⟨fun c b => ?_, crcTable_eq, by decide, by decide, by decide, by decide, crcStepByTable_eq,
    crcByte_by_table_conforms⟩
  rw [← crcTable_eq]
  exact (crcStepByTable_eq c b).symm

end Sys2Proof.Machine
end

section
/-!
PROOF. Sequences of unit commands (`40_crc32.md` R126, R128; `41_adler32.md` R146, R148): every command of a
sequence issued to a halted block does nothing, so there the sequence does nothing; on a running block the
equations of the commands follow one another.
-/

namespace Sys2Proof.Machine

variable {s t : State} {data : List Byte}

/-- R23, R62: a command that ends in a next state hands it to the commands that follow. -/
theorem execAll_cons_of_next {i : Instr} {is : List Instr} (h : exec i s = .next t) :
    execAll (i :: is) s = execAll is t := by
  simp only [execAll, h]

/-- R231: a halted block answers every sequence with the state it is in. -/
theorem execAll_of_halted (hs : s.code ≠ 0#4) (is : List Instr) : execAll is s = .next s := by
  induction is with
  | nil => rfl
  | cons i is ih => rw [execAll_cons_of_next (exec_of_halted hs i), ih]

/-- R144. -/
theorem exec_adlInit_of_running (hs : s.code = 0#4) :
    exec .adlInit s = .next (s.setSums adlerStart) :=
  unlessHalted_of_running hs

/-- R146. -/
theorem exec_adlUpd_of_running (hs : s.code = 0#4) (hin : s.input = some data) :
    exec .adlUpd s = .next (s.setSums (adlRun (s.s1, s.s2) data)) :=
  (unlessHalted_of_running hs).trans (withInput_of_some hin)

/-- R147. -/
theorem exec_adlRead_of_running (hs : s.code = 0#4) :
    exec .adlRead s = .next (s.setRes (adlFinish (s.s1, s.s2))) :=
  unlessHalted_of_running hs

/-- Settles O23: a running block feeds the bytes of the input in order either way, and a halted one does
nothing either way. -/
theorem updIsTheByteCommandRepeated : Obligations.UpdIsTheByteCommandRepeated := by
  intro s data hin
  by_cases hs : s.code = 0#4
  · rw [execAll_pseudoCrcStr hs, execAll_pseudoAdlStr hs]
    exact ⟨exec_crcUpd_of_running hs hin, exec_adlUpd_of_running hs hin⟩
  · rw [execAll_of_halted hs, execAll_of_halted hs]
    exact ⟨exec_of_halted hs _, exec_of_halted hs _⟩

/-- Initialise, feed the input, read out: the sequence reads the input once, before anything else can stop
it, and hands the state from command to command. -/
theorem execAll_init_upd_read {init upd read : Instr} {fed done : List Byte → State}
    (hinit : exec init s = .next t) (hupd : exec upd t = withInput s fun data => .next (fed data))
    (hread : ∀ data, exec read (fed data) = .next (done data)) :
    execAll [init, upd, read] s = withInput s fun data => .next (done data) := by
  simp only [execAll, hinit, hupd, withInput]
  cases s.input with
  | none => rfl
  | some data => simp only [hread]

/-- R128: CRC32 on a running block; with an input that cannot be read whole both stop there. -/
theorem exec_crc32_eq_execAll (hs : s.code = 0#4) :
    exec .crc32 s = execAll [.crcInit, .crcUpd, .crcRead] s := by
  have hupd : exec .crcUpd (s.setCrc crcStart) =
      withInput s fun data => .next ((s.setCrc crcStart).setCrc (crcRun crcStart data)) :=
    unlessHalted_of_running (s := s.setCrc crcStart) hs
  have hseq := execAll_init_upd_read (exec_crcInit_of_running hs) hupd fun data =>
    exec_crcRead_of_running (s := (s.setCrc crcStart).setCrc (crcRun crcStart data)) hs
  exact (unlessHalted_of_running hs).trans hseq.symm

/-- R148: ADLER32 on a running block; with an input that cannot be read whole both stop there. -/
theorem exec_adler32_eq_execAll (hs : s.code = 0#4) :
    exec .adler32 s = execAll [.adlInit, .adlUpd, .adlRead] s := by
  have hupd : exec .adlUpd (s.setSums adlerStart) =
      withInput s fun data => .next ((s.setSums adlerStart).setSums (adlRun adlerStart data)) :=
    unlessHalted_of_running (s := s.setSums adlerStart) hs
  have hseq := execAll_init_upd_read (exec_adlInit_of_running hs) hupd fun data =>
    exec_adlRead_of_running (s := (s.setSums adlerStart).setSums (adlRun adlerStart data)) hs
  exact (unlessHalted_of_running hs).trans hseq.symm

/-- Settles O24: a halted block does nothing either way. -/
theorem contractsAreTheUnitCommandsInOrder : Obligations.ContractsAreTheUnitCommandsInOrder := by
  intro s
  by_cases hs : s.code = 0#4
  · exact ⟨exec_crc32_eq_execAll hs, exec_adler32_eq_execAll hs⟩
  · rw [execAll_of_halted hs, execAll_of_halted hs]
    exact ⟨exec_of_halted hs _, exec_of_halted hs _⟩

end Sys2Proof.Machine
end

section
/-!
PROOF. The Adler step as natural-number arithmetic (`41_adler32.md` R141, R142), and the closed form of both
sums (R149 (b)). Modulo 65521 a step adds its byte to the first sum and the new first sum to the second; so
over a sequence every byte enters the second sum once for itself and once for each byte after it.
-/

namespace Sys2Proof.Machine

/-- R141, with the byte at its value (R82 (a)). -/
theorem adlStep_eq (v : Half × Half) (b : Byte) :
    adlStep v b =
      (BitVec.ofNat 16 ((v.1.toNat + b.toNat) % 65521),
        BitVec.ofNat 16 ((v.2.toNat + (v.1.toNat + b.toNat) % 65521) % 65521)) := by
  simp only [adlStep, byteAsSum_eq, adlerMod]

/-- R32, R33: a reduced sum fits its 16 bits. -/
theorem toNat_ofNat_mod_adlerMod (n : Nat) : (BitVec.ofNat 16 (n % 65521)).toNat = n % 65521 :=
  (BitVec.toNat_ofNat _ _).trans (Nat.mod_eq_of_lt ((Nat.mod_lt n (by decide)).trans (by decide)))

theorem adlStep_fst_toNat (v : Half × Half) (b : Byte) :
    (adlStep v b).1.toNat = (v.1.toNat + b.toNat) % 65521 := by
  rw [adlStep_eq]
  exact toNat_ofNat_mod_adlerMod _

theorem adlStep_snd_toNat (v : Half × Half) (b : Byte) :
    (adlStep v b).2.toNat = (v.2.toNat + (v.1.toNat + b.toNat) % 65521) % 65521 := by
  rw [adlStep_eq]
  exact toNat_ofNat_mod_adlerMod _

/-- R142: below twice the modulus the reduction is one conditional subtraction. -/
theorem mod_adlerMod_eq_ite {n : Nat} (h : n < 2 * 65521) :
    n % 65521 = if 65521 ≤ n then n - 65521 else n := by
  split <;> omega

/-- Settles O25: a reduced sum and a byte, and then two reduced sums, stay below twice the modulus. -/
theorem adlerStepOnReducedSums : Obligations.AdlerStepOnReducedSums := by
  intro s1 s2 b h1 h2 v1 n1 v2 n2
  have hb : b.toNat < 256 := b.isLt
  have hn1 : n1 < 65521 := Nat.mod_lt v1 (by decide)
  have hn2 : n2 < 65521 := Nat.mod_lt v2 (by decide)
  have hv1 : v1 ≤ 65775 := by omega
  have hv2 : v2 ≤ 131040 := by omega
  exact ⟨adlStep_fst_toNat (s1, s2) b, adlStep_snd_toNat (s1, s2) b, hv1, hv2, by omega, by omega, hn1,
    hn2, mod_adlerMod_eq_ite (by omega), mod_adlerMod_eq_ite (by omega)⟩

/-- R149 (b): the sum of the bytes. -/
def byteSum (s : List Byte) : Nat :=
  ((List.range s.length).map fun i => (s.getD i 0).toNat).sum

/-- R149 (b): the sum of the bytes weighted n, n-1, ..., 1. -/
def weightedByteSum (s : List Byte) : Nat :=
  ((List.range s.length).map fun i => (s.length - i) * (s.getD i 0).toNat).sum

theorem byteSum_cons (b : Byte) (s : List Byte) : byteSum (b :: s) = b.toNat + byteSum s := by
  simp [byteSum, List.range_succ_eq_map, Function.comp_def]

/-- A byte in front takes the next weight up and leaves the weights of the bytes after it. -/
theorem weightedByteSum_cons (b : Byte) (s : List Byte) :
    weightedByteSum (b :: s) = (s.length + 1) * b.toNat + weightedByteSum s := by
  simp [weightedByteSum, List.range_succ_eq_map, Function.comp_def]

theorem adlStep_fst_modEq (v : Half × Half) (b : Byte) :
    (adlStep v b).1.toNat ≡ v.1.toNat + b.toNat [MOD 65521] := by
  rw [adlStep_fst_toNat]
  exact Nat.mod_modEq _ _

theorem adlStep_snd_modEq (v : Half × Half) (b : Byte) :
    (adlStep v b).2.toNat ≡ v.2.toNat + (v.1.toNat + b.toNat) [MOD 65521] := by
  rw [adlStep_snd_toNat]
  exact (Nat.mod_modEq _ _).trans ((Nat.mod_modEq _ _).add_left _)

/-- Modulo 65521 a run adds the bytes to the first sum. -/
theorem adlRun_fst_modEq (v : Half × Half) (s : List Byte) :
    (adlRun v s).1.toNat ≡ v.1.toNat + byteSum s [MOD 65521] := by
  induction s generalizing v with
  | nil => rfl
  | cons b s ih =>
    calc (adlRun (adlStep v b) s).1.toNat
        ≡ (adlStep v b).1.toNat + byteSum s [MOD 65521] := ih _
      _ ≡ v.1.toNat + b.toNat + byteSum s [MOD 65521] := (adlStep_fst_modEq v b).add_right _
      _ = v.1.toNat + byteSum (b :: s) := by rw [byteSum_cons, Nat.add_assoc]

/-- Modulo 65521 a run adds the first sum to the second once per byte, and the bytes by their weights. -/
theorem adlRun_snd_modEq (v : Half × Half) (s : List Byte) :
    (adlRun v s).2.toNat ≡
      v.2.toNat + s.length * v.1.toNat + weightedByteSum s [MOD 65521] := by
  induction s generalizing v with
  | nil => simp [weightedByteSum, Nat.ModEq.refl]
  | cons b s ih =>
    calc (adlRun (adlStep v b) s).2.toNat
        ≡ (adlStep v b).2.toNat + s.length * (adlStep v b).1.toNat + weightedByteSum s
            [MOD 65521] := ih _
      _ ≡ v.2.toNat + (v.1.toNat + b.toNat) + s.length * (v.1.toNat + b.toNat) +
            weightedByteSum s [MOD 65521] :=
        ((adlStep_snd_modEq v b).add ((adlStep_fst_modEq v b).mul_left _)).add_right _
      _ = v.2.toNat + (b :: s).length * v.1.toNat + weightedByteSum (b :: s) := by
        rw [weightedByteSum_cons, List.length_cons]
        ring

/-- Settles O26: the sums are reduced, so each is the remainder of what it is congruent to; from (1, 0) the
first sum enters the second once per byte. -/
theorem adlerClosedForm : Obligations.AdlerClosedForm := by
  intro s
  obtain ⟨hfst, hsnd⟩ := adlRun_reduced adlerStart_reduced s
  have hsums : (adlRun (1, 0) s).2.toNat ≡ s.length + weightedByteSum s [MOD 65521] := by
    simpa using adlRun_snd_modEq (1, 0) s
  exact ⟨(Nat.mod_eq_of_lt hfst).symm.trans (adlRun_fst_modEq (1, 0) s),
    (Nat.mod_eq_of_lt hsnd).symm.trans hsums⟩

end Sys2Proof.Machine
end

section
/-!
PROOF. The commands of family 2 on a running block (`41_adler32.md` R144 to R148), from one equation each.
-/

namespace Sys2Proof.Machine

variable {s : State} {data : List Byte}

/-- R145. -/
theorem exec_adlByte_of_running (hs : s.code = 0#4) (b : Byte) :
    exec (.adlByte b) s = .next (s.setSums (adlStep (s.s1, s.s2) b)) :=
  unlessHalted_of_running hs

/-- R148. -/
theorem exec_adler32_of_running (hs : s.code = 0#4) (hin : s.input = some data) :
    exec .adler32 s =
      .next ((s.setSums (adlRun adlerStart data)).setRes (adlFinish (adlRun adlerStart data))) :=
  (unlessHalted_of_running hs).trans (withInput_of_some hin)

/-- Settles O27: the halt check passes, and the sums take the initial values of R6. -/
theorem adlInitSetsTheInitialSums : Obligations.AdlInitSetsTheInitialSums :=
  ⟨by decide, fun _ => exec_adlInit_of_running⟩

/-- Settles O28: the immediate is the byte, and the halt check passes. -/
theorem adlByteFeedsOneByte : Obligations.AdlByteFeedsOneByte := by
  intro b
  refine ⟨rfl, fun s hs => ?_⟩
  rw [exec_adlByte_of_running hs, adlStep_eq]
  rfl

/-- Settles O29: the halt check passes, and the input is read whole. -/
theorem adlUpdFeedsTheInput : Obligations.AdlUpdFeedsTheInput :=
  ⟨by decide, fun _ _ => exec_adlUpd_of_running⟩

/-- Settles O30: the halt check passes, and RES alone is written, with the two sums side by side. -/
theorem adlReadWritesTheFinishedChecksum : Obligations.AdlReadWritesTheFinishedChecksum := by
  refine ⟨by decide, fun s hs => ?_⟩
  rw [exec_adlRead_of_running hs, adlFinish_eq_append]
  rfl

/-- Settles O31: the halt check passes, and the input is read whole. -/
theorem adler32IsTheWholeContract : Obligations.Adler32IsTheWholeContract := by
  refine ⟨by decide, fun s data hs hin => ?_⟩
  rw [exec_adler32_of_running hs hin, adlFinish_eq_append]
  rfl

end Sys2Proof.Machine
end

section
/-!
PROOF. The stored block (`30_encoding.md` R90, `42_deflate_stored.md` R161): its bytes one by one, and what
the reader of R166 (e) makes of it. For a segment of at most 65535 bytes LEN is its length and NLEN is
65535 minus its length, and both are recovered from their two bytes.
-/

namespace Sys2Proof.Machine

/-- R11: the two bytes of a u16 given as a number, the low one first. -/
theorem le16_ofNat (n : Nat) :
    le16 (BitVec.ofNat 16 n) = [BitVec.ofNat 8 (n % 256), BitVec.ofNat 8 (n / 256)] := by
  have hlow : (BitVec.ofNat 16 n).extractLsb' 0 8 = BitVec.ofNat 8 (n % 256) := by
    apply BitVec.eq_of_toNat_eq
    simp
  have hhigh : (BitVec.ofNat 16 n).extractLsb' 8 8 = BitVec.ofNat 8 (n / 256) := by
    apply BitVec.eq_of_toNat_eq
    simp only [BitVec.extractLsb'_toNat, BitVec.toNat_ofNat, Nat.shiftRight_eq_div_pow]
    omega
  rw [le16, hlow, hhigh]

/-- R90: the one's-complement of a u16 is its distance from 65535. -/
theorem complement_ofNat {n : Nat} (h : n ≤ 65535) :
    0xFFFF ^^^ BitVec.ofNat 16 n = BitVec.ofNat 16 (65535 - n) := by
  have hnot : 0xFFFF ^^^ BitVec.ofNat 16 n = ~~~BitVec.ofNat 16 n := BitVec.allOnes_xor
  rw [hnot]
  apply BitVec.eq_of_toNat_eq
  simp only [BitVec.toNat_not, BitVec.toNat_ofNat]
  omega

/-- The reader's number of two bytes is the number they were written for. -/
theorem leNat_ofNat {n : Nat} (h : n ≤ 65535) :
    leNat (BitVec.ofNat 8 (n % 256)) (BitVec.ofNat 8 (n / 256)) = n := by
  simp only [leNat, BitVec.toNat_ofNat]
  omega

/-- Settles O32: LEN is the length and NLEN its distance from 65535, each low byte first. -/
theorem storedBlockLayout : Obligations.StoredBlockLayout := by
  intro f seg h n
  rw [storedBlock, le16_ofNat, complement_ofNat h, le16_ofNat]
  rfl

/-- R166 (e): the reader takes a stored block off the front, whatever follows it. It stops there when
the block is flagged, and otherwise reads on. -/
theorem readStored_storedBlock (f : Bool) {seg : List Byte} (h : seg.length ≤ 65535) (fuel : Nat)
    (rest : List Byte) :
    readStored (fuel + 1) (storedBlock f seg ++ rest) =
      if f then some (seg, rest)
      else (readStored fuel rest).map fun r => (seg ++ r.1, r.2) := by
  rw [storedBlockLayout f seg h]
  simp only [List.cons_append, List.nil_append, readStored, leNat_ofNat h,
    leNat_ofNat (Nat.sub_le 65535 seg.length)]
  cases f <;> simp

end Sys2Proof.Machine
end

section
/-!
PROOF. The segments (`42_deflate_stored.md` R162): the first k segments joined are the first 65535 k bytes of
the input, and nseg of them reach its end.
-/

namespace Sys2Proof.Machine

theorem storedSegment_length (s : List Byte) (k : Nat) :
    (storedSegment s k).length = min 65535 (s.length - 65535 * k) := by
  simp [storedSegment, maxStored]

theorem storedSegment_eq_drop_take (s : List Byte) (k : Nat) :
    storedSegment s k = (s.take (min (65535 * (k + 1)) s.length)).drop (65535 * k) := by
  rw [← List.take_eq_take_min]
  simp [storedSegment, maxStored, List.drop_take, Nat.mul_succ]

theorem segments_flatMap (s : List Byte) (m : Nat) :
    (List.range m).flatMap (storedSegment s) = s.take (65535 * m) := by
  induction m with
  | zero => simp
  | succ m ih =>
    rw [List.range_succ, List.flatMap_append, ih, Nat.mul_succ, List.take_add]
    simp [storedSegment, maxStored]

/-- Settles O33: nseg is the least number of segments that covers the input, so every segment before the last
is full and the last holds the rest. -/
theorem segmentsPartitionTheInput : Obligations.SegmentsPartitionTheInput := by
  intro s
  have hcover : s.length ≤ 65535 * nseg s.length := le_mul_nseg s.length
  have hleast : s ≠ [] → 65535 * (nseg s.length - 1) < s.length := fun hs =>
    mul_pred_nseg_lt (by simpa using hs)
  refine ⟨storedSegment_eq_drop_take s, ?_, fun hs => ⟨hleast hs, hcover⟩, fun k hk => ?_, ?_,
    fun hs => ?_, ?_⟩
  · rintro rfl
    rfl
  · rw [storedSegment_length]
    have hs : s ≠ [] := by
      rintro rfl
      simp [nseg] at hk
    have := hleast hs
    omega
  · rw [storedSegment_length]
    omega
  · rw [storedSegment_length]
    have := hleast hs
    omega
  · rw [segments_flatMap, List.take_of_length_le hcover]

end Sys2Proof.Machine
end

section
/-!
PROOF. The deflate encoding reads back (`42_deflate_stored.md` R163, R166, R167): an input of at most 65535
bytes is one flagged block, a longer one is an unflagged block of its first 65535 bytes before the encoding of the
rest, and the reader follows the same recursion.
-/

namespace Sys2Proof.Machine

variable {s : List Byte}

theorem nseg_of_le {n : Nat} (h : n ≤ 65535) : nseg n = 1 := by
  simp only [nseg, maxStored]
  split <;> omega

theorem nseg_of_gt {n : Nat} (h : 65535 < n) : nseg n = nseg (n - 65535) + 1 := by
  have hn : n ≠ 0 := by omega
  have hrest : n - 65535 ≠ 0 := by omega
  simp only [nseg, maxStored, if_neg hn, if_neg hrest]
  omega

theorem storedSegment_zero (s : List Byte) : storedSegment s 0 = s.take 65535 := by
  simp [storedSegment, maxStored]

theorem storedSegment_succ (s : List Byte) (k : Nat) :
    storedSegment s (k + 1) = storedSegment (s.drop 65535) k := by
  simp [storedSegment, maxStored, Nat.mul_succ, Nat.add_comm]

/-- R163: an input that fits one segment is one final block. -/
theorem deflateStored_of_le (h : s.length ≤ 65535) : deflateStored s = storedBlock true s := by
  simp [deflateStored, nseg_of_le h, storedSegment_zero, List.take_of_length_le h]

/-- R163: a longer input is its first segment, not flagged, and the encoding of the rest. -/
theorem deflateStored_of_gt (h : 65535 < s.length) :
    deflateStored s = storedBlock false (s.take 65535) ++ deflateStored (s.drop 65535) := by
  have hm : nseg s.length = nseg (s.drop 65535).length + 1 := by
    rw [List.length_drop, nseg_of_gt h]
  have hfirst : (0 == nseg (s.drop 65535).length) = false := beq_false_of_ne (nseg_pos _).ne
  have hshift (a b : Nat) : (a + 1 == b + 1) = (a == b) := by simp
  simp only [deflateStored, hm, List.range_succ_eq_map, List.flatMap_cons, List.flatMap_map,
    storedSegment_zero, storedSegment_succ, hshift, hfirst]

/-- R163: the flag of the model's encoding is set on the last segment alone. -/
theorem deflateStored_eq_flatMap (s : List Byte) :
    deflateStored s = (List.range (nseg s.length)).flatMap fun k =>
      storedBlock (decide (k = nseg s.length - 1)) (storedSegment s k) := by
  have hflag (k : Nat) : (k + 1 == nseg s.length) = decide (k = nseg s.length - 1) := by
    have := nseg_pos s.length
    rw [Bool.beq_eq_decide_eq, decide_eq_decide]
    omega
  simp only [deflateStored, hflag]

/-- R166 (e): with a unit of fuel for every block the reader of the encoding finds the input, and leaves what
follows. -/
theorem readStored_deflateStored {fuel : Nat} (hfuel : nseg s.length ≤ fuel) (tail : List Byte) :
    readStored fuel (deflateStored s ++ tail) = some (s, tail) := by
  induction fuel generalizing s with
  | zero => exact absurd hfuel (Nat.not_le.mpr (nseg_pos s.length))
  | succ fuel ih =>
    rcases Nat.lt_or_ge 65535 s.length with hgt | hle
    · have hfirst : (s.take 65535).length ≤ 65535 := List.length_take_le ..
      have hrest : nseg (s.drop 65535).length ≤ fuel := by
        rw [nseg_of_gt hgt] at hfuel
        simpa using hfuel
      rw [deflateStored_of_gt hgt, List.append_assoc, readStored_storedBlock false hfirst, ih hrest]
      simp
    · rw [deflateStored_of_le hle, readStored_storedBlock true hle]
      rfl

/-- Settles O34: the encoding's recursion gives its shape at the boundaries, and the reader has more fuel than
there are blocks. -/
theorem deflateOutputReadsBack : Obligations.DeflateOutputReadsBack := by
  intro s m
  have hlength : (deflateStored s).length = s.length + 5 * m := deflateStored_length_eq s
  refine ⟨deflateStored_eq_flatMap s, hlength, ?_, fun h => deflateStored_of_le h.le,
    fun h => ?_, fun tail => ?_⟩
  · rintro rfl
    rfl
  · have hrest : (s.drop 65535).length ≤ 65535 := by simp [h]
    rw [deflateStored_of_gt (by omega), deflateStored_of_le hrest]
  · apply readStored_deflateStored
    rw [List.length_append, hlength]
    omega

end Sys2Proof.Machine
end

section
/-!
PROOF. The words of DFL_BLOCK (`30_encoding.md` R81, R83): under its operation code a word is legal only when
bits 7:1 are 0.
-/

namespace Sys2Proof

/-- R81: bits 7:1 of a word are those of its immediate. -/
theorem immField_reserved (w : Half) : (immField w).extractLsb' 1 7 = w.extractLsb' 1 7 := by
  apply BitVec.eq_of_getLsbD_eq
  intro k hk
  simp [immField, hk]

/-- R83: the operation code 0x30 is that of DFL_BLOCK alone. -/
theorem exists_dflBlock_of_opcode {i : Instr} (h : opcode i = 0x30#8) : ∃ f, i = .dflBlock f := by
  cases i with
  | dflBlock f => exact ⟨f, rfl⟩
  | _ => simp [opcode] at h

/-- R81, R84: a word with the operation code of DFL_BLOCK and a reserved bit set is illegal. -/
theorem decode_dflBlock_reserved {w : Half} (hop : opField w = 0x30#8)
    (hreserved : w.extractLsb' 1 7 ≠ 0#7) : ∃ e, decode w = .error e := by
  cases hw : decode w with
  | error e => exact ⟨e, rfl⟩
  | ok i =>
    obtain ⟨hopcode, himm⟩ := fields_of_decode hw
    obtain ⟨f, rfl⟩ := exists_dflBlock_of_opcode (hopcode.symm.trans hop)
    refine absurd ?_ hreserved
    rw [← immField_reserved, himm]
    cases f <;> rfl

end Sys2Proof
end

section
/-!
PROOF. The commands of family 3 on a running block (`42_deflate_stored.md` R164, R165): one equation for each
way they end.
-/

namespace Sys2Proof.Machine

variable {s : State} {data : List Byte} {f : Bool}

/-- R164 (1). -/
theorem exec_dflBlock_of_too_large (hs : s.code = 0#4) (hlarge : 65535 < s.ilen) :
    exec (.dflBlock f) s = .next (s.takeFault .blockTooLarge) := by
  simp [exec, execDflBlock, hs, maxStored, hlarge]

/-- R164 (2). -/
theorem exec_dflBlock_of_overflow (hs : s.code = 0#4) (hsmall : s.ilen ≤ 65535)
    (hover : s.cfg.obufCap < storedLength s.ilen) :
    exec (.dflBlock f) s = .next (s.takeFault .outputOverflow) := by
  have h := State.overflows_eq_true.mpr hover
  simp [exec, execDflBlock, hs, maxStored, Nat.not_lt.mpr hsmall, h]

/-- R164: both checks pass. -/
theorem exec_dflBlock_of_fits (hs : s.code = 0#4) (hin : s.input = some data)
    (hsmall : s.ilen ≤ 65535) (hfits : storedLength s.ilen ≤ s.cfg.obufCap) :
    exec (.dflBlock f) s = .next (s.commit (storedBlock f data)) := by
  have h := State.overflows_eq_false.mpr hfits
  simp [exec, execDflBlock, hs, maxStored, Nat.not_lt.mpr hsmall, h, hin]

/-- R165 (1). -/
theorem exec_dflEncode_of_overflow (hs : s.code = 0#4) (hover : s.cfg.obufCap < deflateLength s.ilen) :
    exec .dflEncode s = .next (s.takeFault .outputOverflow) := by
  have h := State.overflows_eq_true.mpr hover
  simp [exec, execDflEncode, hs, h]

/-- R165: the check passes. -/
theorem exec_dflEncode_of_fits (hs : s.code = 0#4) (hin : s.input = some data)
    (hfits : deflateLength s.ilen ≤ s.cfg.obufCap) :
    exec .dflEncode s = .next (s.commit (deflateStored data)) := by
  have h := State.overflows_eq_false.mpr hfits
  simp [exec, execDflEncode, hs, h, hin]

/-- R12: a commit written out, with the length of the output given. -/
theorem State.commit_eq (s : State) {out : List Byte} {n : Nat} (h : out.length = n) :
    s.commit out = { s with obuf := Memory.ofBytes out, olen := n } := by
  rw [← h]
  rfl

/-- Settles O36: the three ways DFL_BLOCK ends on a running block, and the words its format rejects. -/
theorem dflBlockCommand : Obligations.DflBlockCommand := by
  refine ⟨by decide, by decide, fun w => decode_dflBlock_reserved, fun f s hs =>
    ⟨exec_dflBlock_of_too_large hs, exec_dflBlock_of_overflow hs, fun data hin hsmall hfits => ?_⟩⟩
  have hlength : (storedBlock f data).length = 5 + s.ilen := by
    rw [storedBlock_length_eq, State.input_length hin, storedLength]
  rw [exec_dflBlock_of_fits hs hin hsmall hfits, State.commit_eq s hlength]

/-- Settles O37: the two ways DFL_ENCODE ends on a running block. -/
theorem dflEncodeCommand : Obligations.DflEncodeCommand := by
  refine ⟨by decide, fun s hs => ⟨exec_dflEncode_of_overflow hs, fun data hin hfits => ?_⟩⟩
  have hlength : (deflateStored data).length = s.ilen + 5 * nseg s.ilen := by
    rw [deflateStored_length_eq, State.input_length hin, deflateLength]
  rw [exec_dflEncode_of_fits hs hin hfits, State.commit_eq s hlength]

end Sys2Proof.Machine
end

section
/-!
PROOF. The zlib stream (`43_zlib_stream.md` R182, R183): ZLIB_WRAP on a running block, what its output owes to
DFL_ENCODE and ADLER32, and the reader that gives the input back.
-/

namespace Sys2Proof.Machine

variable {s : State} {data : List Byte}

/-- R182 (1). -/
theorem exec_zlibWrap_of_overflow (hs : s.code = 0#4) (hover : s.cfg.obufCap < zlibLength s.ilen) :
    exec .zlibWrap s = .next (s.takeFault .outputOverflow) := by
  have h := State.overflows_eq_true.mpr hover
  simp [exec, execZlibWrap, hs, h]

/-- R182: the check passes. -/
theorem exec_zlibWrap_of_fits (hs : s.code = 0#4) (hin : s.input = some data)
    (hfits : zlibLength s.ilen ≤ s.cfg.obufCap) :
    exec .zlibWrap s = .next ((s.setSums (adlRun adlerStart data)).commit (zlibWrap data)) := by
  have h := State.overflows_eq_false.mpr hfits
  simp [exec, execZlibWrap, hs, h, hin, zlibWrap, adler32]

/-- R182: what a completion on a running block says; of the other two ways to end, one is a halt and the other
leaves a code. -/
theorem exec_zlibWrap_completed {z : State} (hs : s.code = 0#4) (h : exec .zlibWrap s = .next z)
    (hz : z.code = 0#4) :
    zlibLength s.ilen ≤ s.cfg.obufCap ∧
      ∃ data, s.input = some data ∧ z.output = some (zlibWrap data) := by
  rcases execZlibWrap_next h with ⟨hhalted, -⟩ | ⟨-, -, rfl⟩ | ⟨-, hfits, data, hin, rfl⟩
  · exact absurd hs hhalted
  · rw [State.takeFault_code] at hz
    exact absurd hz (FaultCode.code_ne_zero _)
  · exact ⟨hfits, data, hin, State.commit_output _ _⟩

/-- R99: the encoding inside a zlib stream is shorter than the stream. -/
theorem deflateLength_le_zlibLength (n : Nat) : deflateLength n ≤ zlibLength n :=
  Nat.le_add_right _ _

/-- R183 (a): behind the two header bytes the reader of stored blocks finds the input and leaves the
checksum, whatever it is. -/
theorem readStored_zlibFrame (data : List Byte) (a : Word) :
    readStored (zlibFrame data a).length ((zlibFrame data a).drop 2) = some (data, be32 a) := by
  have hfuel : nseg data.length ≤ (zlibFrame data a).length := by
    rw [zlibFrame_length_eq, zlibLength]
    omega
  exact readStored_deflateStored hfuel (be32 a)

/-- Settles O38: the two ways ZLIB_WRAP ends on a running block. -/
theorem zlibWrapCommand : Obligations.ZlibWrapCommand := by
  refine ⟨by decide, fun s hs => ⟨exec_zlibWrap_of_overflow hs, fun data hin hfits => ?_⟩⟩
  have hlength : (zlibWrap data).length = s.ilen + 5 * nseg s.ilen + 6 := by
    rw [zlibWrap, zlibFrame_length_eq, State.input_length hin, zlibLength]
  rw [exec_zlibWrap_of_fits hs hin hfits, State.commit_eq _ hlength]
  rfl

/-- Settles O39: an output with room for the zlib stream has room for the encoding inside it, so the lower
commands complete too, on the same input. -/
theorem zlibOutputIsMadeOfTheLowerCommands : Obligations.ZlibOutputIsMadeOfTheLowerCommands := by
  intro s z hs h hz
  obtain ⟨hfits, data, hin, hout⟩ := exec_zlibWrap_completed hs h hz
  have hroom : deflateLength s.ilen ≤ s.cfg.obufCap :=
    (deflateLength_le_zlibLength s.ilen).trans hfits
  exact ⟨_, _, deflateStored data, exec_dflEncode_of_fits hs hin hroom, hs,
    State.commit_output _ _, exec_adler32_of_running hs hin, hout⟩

/-- Settles O40: the header is the fixed one, the blocks read back as the input, and what is left is the checksum
of exactly that input. -/
theorem zlibOutputReadsBack : Obligations.ZlibOutputReadsBack := by
  intro s
  have hheader : (zlibWrap s).take 2 = [0x78, 0x01] := rfl
  have hblocks : readStored (zlibWrap s).length ((zlibWrap s).drop 2) = some (s, be32 (adler32 s)) :=
    readStored_zlibFrame s (adler32 s)
  simp [readZlib, hheader, hblocks]

end Sys2Proof.Machine
end

section
/-!
PROOF. The bytes of a chunk (`30_encoding.md` R94, `44_png_chunk.md` R190): four fields, of which the type has
four bytes and the data as many as the length field says.
-/

namespace Sys2Proof.Machine

/-- R11: the number of the four bytes of a u32 is the u32. -/
theorem beNat_be32 (v : Word) : beNat (be32 v) = v.toNat := by
  simp only [beNat, be32, List.foldl_cons, List.foldl_nil, BitVec.extractLsb'_toNat,
    Nat.shiftRight_eq_div_pow]
  omega

section ChunkFields

variable {t d : List Byte} {c : Word}

/-- R190: a length the field can hold is recovered from its four bytes. -/
theorem chunkFrame_length_field (hd : d.length ≤ 2 ^ 32 - 1) :
    beNat ((chunkFrame t d c).take 4) = d.length := by
  have hfield : (chunkFrame t d c).take 4 = be32 (BitVec.ofNat 32 d.length) := rfl
  rw [hfield, beNat_be32, BitVec.toNat_ofNat, Nat.mod_eq_of_lt (by omega)]

theorem chunkFrame_drop_length_field : (chunkFrame t d c).drop 4 = t ++ d ++ be32 c := rfl

/-- R190: the four bytes after the length field are the type. -/
theorem chunkFrame_type_field (ht : t.length = 4) : ((chunkFrame t d c).drop 4).take 4 = t := by
  rw [chunkFrame_drop_length_field, List.append_assoc, List.take_left' ht]

/-- R190: the CRC covers the bytes between the length field and the CRC field. -/
theorem chunkFrame_covered_bytes (ht : t.length = 4) :
    ((chunkFrame t d c).drop 4).take (4 + d.length) = t ++ d := by
  rw [chunkFrame_drop_length_field, List.take_left' (by rw [List.length_append, ht])]

/-- R190: after the first eight bytes stand the data and the CRC field. -/
theorem chunkFrame_drop_header (ht : t.length = 4) : (chunkFrame t d c).drop 8 = d ++ be32 c := by
  have hsplit : (chunkFrame t d c).drop 8 = ((chunkFrame t d c).drop 4).drop 4 :=
    (List.drop_drop (i := 4) (j := 4)).symm
  rw [hsplit, chunkFrame_drop_length_field, List.append_assoc, List.drop_left' ht]

theorem chunkFrame_data_field (ht : t.length = 4) :
    ((chunkFrame t d c).drop 8).take d.length = d := by
  rw [chunkFrame_drop_header ht, List.take_left]

theorem chunkFrame_crc_field (ht : t.length = 4) :
    (chunkFrame t d c).drop (8 + d.length) = be32 c := by
  rw [← List.drop_drop, chunkFrame_drop_header ht, List.drop_left]

end ChunkFields

end Sys2Proof.Machine
end

section
/-!
PROOF. PNG_CHUNK on a running block (`44_png_chunk.md` R192, R193): one equation for each way it ends, the fields
of what it emits, and its CRC field from the unit commands.
-/

namespace Sys2Proof.Machine

variable {s t : State} {data : List Byte}

/-- R192 (1). -/
theorem exec_pngChunk_of_too_long (hs : s.code = 0#4) (hlong : 2 ^ 32 - 1 < s.ilen) :
    exec .pngChunk s = .next (s.takeFault .chunkTooLong) := by
  have hbad := tooLongForChunk_eq_true.mpr hlong
  simp [exec, execPngChunk, hs, hbad]

/-- R192 (2). -/
theorem exec_pngChunk_of_overflow (hs : s.code = 0#4) (hshort : s.ilen ≤ 2 ^ 32 - 1)
    (hover : s.cfg.obufCap < chunkLength s.ilen) :
    exec .pngChunk s = .next (s.takeFault .outputOverflow) := by
  have hok := tooLongForChunk_eq_false.mpr hshort
  have hbad := State.overflows_eq_true.mpr hover
  simp [exec, execPngChunk, hs, hok, hbad]

/-- R192: both checks pass. -/
theorem exec_pngChunk_of_fits (hs : s.code = 0#4) (hin : s.input = some data)
    (hshort : s.ilen ≤ 2 ^ 32 - 1) (hfits : chunkLength s.ilen ≤ s.cfg.obufCap) :
    exec .pngChunk s = .next
      ((s.setCrc (crcRun crcStart (s.chunkType ++ data))).commit (pngChunk s.chunkType data)) := by
  have hlen := tooLongForChunk_eq_false.mpr hshort
  have hcap := State.overflows_eq_false.mpr hfits
  simp [exec, execPngChunk, hs, hlen, hcap, hin, pngChunk, crc32]

/-- R192: what a completion on a running block says; of the other three ways to end, one is a halt and two
leave a code. -/
theorem exec_pngChunk_completed (hs : s.code = 0#4) (h : exec .pngChunk s = .next t)
    (ht : t.code = 0#4) :
    s.ilen ≤ 2 ^ 32 - 1 ∧
      ∃ data, s.input = some data ∧ t.output = some (pngChunk s.chunkType data) := by
  have hfault (f : FaultCode) : t ≠ s.takeFault f := by
    rintro rfl
    exact FaultCode.code_ne_zero f (by rwa [State.takeFault_code] at ht)
  rcases execPngChunk_next h with ⟨hhalted, -⟩ | ⟨-, -, hf⟩ | ⟨-, -, -, hf⟩ |
    ⟨-, hshort, -, data, hin, rfl⟩
  · exact absurd hs hhalted
  · exact absurd hf (hfault _)
  · exact absurd hf (hfault _)
  · exact ⟨hshort, data, hin, State.commit_output _ _⟩

/-- Settles O41: the three ways PNG_CHUNK ends on a running block; the type plays no part in the checks. -/
theorem pngChunkCommand : Obligations.PngChunkCommand := by
  refine ⟨by decide, fun _ => rfl, fun s hs => ⟨exec_pngChunk_of_too_long hs,
    exec_pngChunk_of_overflow hs, fun data hin hshort hfits => ?_⟩⟩
  have hlength : (pngChunk s.chunkType data).length = s.ilen + 12 := by
    rw [pngChunk, chunkFrame_length_eq s.chunkType_length, State.input_length hin, chunkLength]
  have hbytes : pngChunk s.chunkType data = be32 (BitVec.ofNat 32 s.ilen) ++ be32 s.arg0 ++ data ++
      be32 (crc32 (be32 s.arg0 ++ data)) := by
    rw [← State.input_length hin]
    rfl
  rw [exec_pngChunk_of_fits hs hin hshort hfits, State.commit_eq _ hlength, hbytes]
  rfl

/-- R23, R62: a sequence that ends in a next state hands it to the sequence that follows. -/
theorem execAll_append_of_next {is js : List Instr} (h : execAll is s = .next t) :
    execAll (is ++ js) s = execAll js t := by
  induction is generalizing s with
  | nil =>
    obtain rfl : s = t := Host.Outcome.next.inj h
    rfl
  | cons i is ih =>
    cases hi : exec i s with
    | next u =>
      rw [execAll_cons_of_next hi] at h
      rw [List.cons_append, execAll_cons_of_next hi, ih h]
    | fault r => simp [execAll, hi] at h
    | refused r => simp [execAll, hi] at h

/-- R129 (a), R193: initialise, feed a string, feed the input, read out: RES is the CRC-32 of the string
followed by the input. -/
theorem execAll_crc_string_then_input (hs : s.code = 0#4) (hin : s.input = some data)
    (bs : List Byte) :
    ∃ u, execAll (.crcInit :: pseudoCrcStr bs ++ [.crcUpd, .crcRead]) s = .next u ∧
      u.res = crc32 (bs ++ data) := by
  have hstring : execAll (.crcInit :: pseudoCrcStr bs) s =
      .next ((s.setCrc crcStart).setCrc (crcRun crcStart bs)) :=
    (execAll_cons_of_next (exec_crcInit_of_running hs)).trans
      (execAll_pseudoCrcStr (s := s.setCrc crcStart) hs bs)
  have hupd := exec_crcUpd_of_running (s := (s.setCrc crcStart).setCrc (crcRun crcStart bs)) hs hin
  refine ⟨_, (execAll_append_of_next hstring).trans ((execAll_cons_of_next hupd).trans
    (execAll_cons_of_next (exec_crcRead_of_running hs))), ?_⟩
  rw [crc32, crcRun_append]
  rfl

/-- Settles O42: the output is the chunk of R190, whose fields stand where the rule says; a length that passed
the check is recovered from its four bytes, and the unit commands feed the CRC the same bytes. -/
theorem pngChunkEmittedFields : Obligations.PngChunkEmittedFields := by
  intro s t data hs hin h ht
  obtain ⟨hshort, data', hin', hout⟩ := exec_pngChunk_completed hs h ht
  obtain rfl : data' = data := Option.some.inj (hin'.symm.trans hin)
  obtain ⟨u, hu, hres⟩ := execAll_crc_string_then_input hs hin s.chunkType
  rw [← State.input_length hin] at hshort ⊢
  have htype : s.chunkType.length = 4 := s.chunkType_length
  refine ⟨_, hout, chunkFrame_length_field hshort, chunkFrame_type_field htype,
    chunkFrame_data_field htype, ?_, u, hu, ?_⟩
  · rw [pngChunk, chunkFrame_covered_bytes htype, chunkFrame_crc_field htype]
  · rw [pngChunk, chunkFrame_crc_field htype, hres]

end Sys2Proof.Machine
end

section
/-!
PROOF. The filtered scanlines (`30_encoding.md` R96, `45_png_image.md` R200): row r of them is the filter byte
and row r of the pixels, and the reader of rows gives the pixels back.
-/

namespace Sys2Proof.Machine

/-- R200: the first row is the filter byte and the first pixel bytes; the later rows are those of the
remaining pixels. -/
theorem filterRows_succ (rowBytes h : Nat) (p : List Byte) :
    filterRows rowBytes (h + 1) p =
      filterByte :: (p.take rowBytes ++ filterRows rowBytes h (p.drop rowBytes)) := rfl

/-- Pixels of a positive number of rows fill the first, and leave those of one row less. -/
theorem row_of_pixels {rowBytes h : Nat} {p : List Byte} (hp : p.length = rowBytes * (h + 1)) :
    (p.take rowBytes).length = rowBytes ∧ (p.drop rowBytes).length = rowBytes * h := by
  rw [Nat.mul_succ] at hp
  rw [List.length_take, List.length_drop]
  omega

/-- R96: row r starts r rows of bytes in, and holds the pixel bytes from r rows of pixels on. -/
theorem filterRows_row {rowBytes h r : Nat} {p : List Byte} (hp : p.length = rowBytes * h)
    (hr : r < h) :
    ((filterRows rowBytes h p).drop (r * (1 + rowBytes))).take (1 + rowBytes) =
      filterByte :: (p.drop (rowBytes * r)).take rowBytes := by
  induction h generalizing p r with
  | zero => exact absurd hr (Nat.not_lt_zero r)
  | succ h ih =>
    obtain ⟨hfirst, hrest⟩ := row_of_pixels hp
    rw [filterRows_succ, ← List.cons_append]
    have hrow : (filterByte :: p.take rowBytes).length = 1 + rowBytes := by
      rw [List.length_cons, hfirst, Nat.add_comm]
    cases r with
    | zero =>
      rw [Nat.zero_mul, List.drop_zero, List.take_left' hrow, Nat.mul_zero, List.drop_zero]
    | succ r =>
      rw [Nat.succ_mul, Nat.add_comm (r * _), ← List.drop_drop, List.drop_left' hrow,
        ih hrest (Nat.lt_of_succ_lt_succ hr), List.drop_drop, Nat.mul_succ, Nat.add_comm rowBytes]

/-- R207 (a): undoing filter 0 row by row gives the pixels. -/
theorem readRows_filterRows {rowBytes h : Nat} {p : List Byte} (hp : p.length = rowBytes * h) :
    readRows rowBytes h (filterRows rowBytes h p) = some p := by
  induction h generalizing p with
  | zero =>
    obtain rfl : p = [] := List.length_eq_zero_iff.mp hp
    rfl
  | succ h ih =>
    obtain ⟨hfirst, hrest⟩ := row_of_pixels hp
    simp [filterRows_succ, readRows, filterByte, hfirst, List.take_left' hfirst,
      List.drop_left' hfirst, ih hrest]

/-- Settles O43: the rows of a `w` by `h` image are the rows of 3w bytes. -/
theorem scanlineRows : Obligations.ScanlineRows := fun w h p hp =>
  ⟨scanlines_length_eq w h p hp, fun _ hr => filterRows_row hp hr⟩

end Sys2Proof.Machine
end

section
/-!
PROOF. PNG_ENCODE on a running block (`45_png_image.md` R206): one equation for each way it ends.
-/

namespace Sys2Proof.Machine

variable {s t : State} {data : List Byte}

/-- R206 (1). -/
theorem exec_pngEncode_of_mismatch (hs : s.code = 0#4)
    (hsize : s.ilen ≠ 3 * s.arg0.toNat * s.arg1.toNat) :
    exec .pngEncode s = .next (s.takeFault .inputSizeMismatch) := by
  have hbad := State.sizeMismatch_eq_true.mpr hsize
  simp [exec, execPngEncode, hs, hbad]

/-- R206 (2). -/
theorem exec_pngEncode_of_too_long (hs : s.code = 0#4)
    (hsize : s.ilen = 3 * s.arg0.toNat * s.arg1.toNat)
    (hlong : 2 ^ 32 - 1 < idatLength s.width.toNat s.height.toNat) :
    exec .pngEncode s = .next (s.takeFault .chunkTooLong) := by
  have hok := State.sizeMismatch_eq_false.mpr hsize
  have hbad := tooLongForChunk_eq_true.mpr hlong
  simp [exec, execPngEncode, hs, hok, hbad]

/-- R206 (3). -/
theorem exec_pngEncode_of_overflow (hs : s.code = 0#4)
    (hsize : s.ilen = 3 * s.arg0.toNat * s.arg1.toNat)
    (hshort : idatLength s.width.toNat s.height.toNat ≤ 2 ^ 32 - 1)
    (hover : s.cfg.obufCap < pngLength s.width.toNat s.height.toNat) :
    exec .pngEncode s = .next (s.takeFault .outputOverflow) := by
  have hok := State.sizeMismatch_eq_false.mpr hsize
  have hlen := tooLongForChunk_eq_false.mpr hshort
  have hbad := State.overflows_eq_true.mpr hover
  simp [exec, execPngEncode, hs, hok, hlen, hbad]

/-- R206: the three checks pass. -/
theorem exec_pngEncode_of_fits (hs : s.code = 0#4) (hin : s.input = some data)
    (hsize : s.ilen = 3 * s.arg0.toNat * s.arg1.toNat)
    (hshort : idatLength s.width.toNat s.height.toNat ≤ 2 ^ 32 - 1)
    (hfits : pngLength s.width.toNat s.height.toNat ≤ s.cfg.obufCap) :
    exec .pngEncode s = .next
      (((s.setSums (adlRun adlerStart (scanlines s.width.toNat s.height.toNat data))).setCrc
        (crcRun crcStart typeIEND)).commit (pngEncode s.width s.height data)) := by
  have hok := State.sizeMismatch_eq_false.mpr hsize
  have hlen := tooLongForChunk_eq_false.mpr hshort
  have hcap := State.overflows_eq_false.mpr hfits
  simp [exec, execPngEncode, hs, hok, hlen, hcap, hin]

/-- R206: what a completion on a running block says; of the other four ways to end, one is a halt and three
leave a code. -/
theorem exec_pngEncode_completed (hs : s.code = 0#4) (h : exec .pngEncode s = .next t)
    (ht : t.code = 0#4) :
    s.ilen = 3 * s.arg0.toNat * s.arg1.toNat ∧
      idatLength s.arg0.toNat s.arg1.toNat ≤ 2 ^ 32 - 1 ∧
      ∃ data, s.input = some data ∧ t.output = some (pngEncode s.arg0 s.arg1 data) := by
  have hfault (f : FaultCode) : t ≠ s.takeFault f := by
    rintro rfl
    exact FaultCode.code_ne_zero f (by rwa [State.takeFault_code] at ht)
  rcases execPngEncode_next h with ⟨hhalted, -⟩ | ⟨-, -, hf⟩ | ⟨-, -, -, hf⟩ | ⟨-, -, -, -, hf⟩ |
    ⟨-, hsize, hshort, -, data, hin, rfl⟩
  · exact absurd hs hhalted
  · exact absurd hf (hfault _)
  · exact absurd hf (hfault _)
  · exact absurd hf (hfault _)
  · exact ⟨hsize, hshort, data, hin, State.commit_output _ _⟩

/-- R206: the running state of the last chunk, whose data are empty. -/
theorem crcRun_typeIEND : crcRun crcStart typeIEND = 0x51BD9F7D#32 := by decide +kernel

/-- Settles O44: the four ways PNG_ENCODE ends on a running block; the committed file has the length the last
check compared. -/
theorem pngEncodeCommand : Obligations.PngEncodeCommand := by
  refine ⟨by decide, crcRun_typeIEND, fun s hs => ⟨exec_pngEncode_of_mismatch hs,
    exec_pngEncode_of_too_long hs, exec_pngEncode_of_overflow hs,
    fun data hin hsize hshort hfits => ?_⟩⟩
  have hpixels : data.length = 3 * s.width.toNat * s.height.toNat :=
    (State.input_length hin).trans hsize
  rw [exec_pngEncode_of_fits hs hin hsize hshort hfits, crcRun_typeIEND,
    State.commit_eq _ (pngEncode_length_eq s.width s.height data hpixels)]
  rfl

end Sys2Proof.Machine
end

section
/-!
PROOF. The PNG file (`30_encoding.md` R94, R98, `45_png_image.md` R202 to R204, R207): the lengths of its parts,
and the reader that takes it apart chunk by chunk.
-/

namespace Sys2Proof.Machine

variable {w h : Word} {p : List Byte}

/-- R202: two big-endian words and five constant bytes. -/
theorem ihdrData_length (w h : Word) : (ihdrData w h).length = 13 := rfl

/-- R206: the IDAT data have the length Z that the second check compares. -/
theorem idatData_length (hp : p.length = 3 * w.toNat * h.toNat) :
    (idatData w h p).length = idatLength w.toNat h.toNat := by
  rw [idatData, zlibWrap, zlibFrame_length_eq, scanlines_length_eq _ _ _ hp, idatLength]

/-- R204: IEND is twelve constant bytes. -/
theorem pngChunk_typeIEND :
    pngChunk typeIEND [] = [0, 0, 0, 0, 0x49, 0x45, 0x4E, 0x44, 0xAE, 0x42, 0x60, 0x82] := by
  decide +kernel

/-- Settles O45: the file is the four pieces of its definition, and only IEND's bytes are computed. -/
theorem pngFileLayout : Obligations.PngFileLayout := by
  intro w h p l
  refine ⟨rfl, ihdrData_length w h, rfl, ?_, rfl,
    fun hp => ⟨idatData_length hp, pngEncode_length_eq w h p hp⟩⟩
  rw [← pngChunk_typeIEND]
  rfl

/-- R94: the reader takes a chunk off the front, whatever follows it. -/
theorem readChunk_pngChunk_append {t d : List Byte} (ht : t.length = 4)
    (hd : d.length ≤ 2 ^ 32 - 1) (rest : List Byte) :
    readChunk (pngChunk t d ++ rest) = some (t, d, rest) := by
  have hlen : (pngChunk t d).length = 12 + d.length := by
    rw [pngChunk, chunkFrame_length_eq ht, chunkLength, Nat.add_comm]
  have hlength : beNat ((pngChunk t d ++ rest).take 4) = d.length := by
    rw [List.take_append_of_le_length (by omega)]
    exact chunkFrame_length_field hd
  have htype : ((pngChunk t d ++ rest).drop 4).take 4 = t := by
    rw [List.drop_append_of_le_length (by omega),
      List.take_append_of_le_length (by rw [List.length_drop]; omega)]
    exact chunkFrame_type_field ht
  have hheader : (pngChunk t d ++ rest).drop 8 = d ++ (be32 (crc32 (t ++ d)) ++ rest) := by
    rw [List.drop_append_of_le_length (by omega), pngChunk, chunkFrame_drop_header ht,
      List.append_assoc]
  have hcrc : ((pngChunk t d ++ rest).drop (8 + d.length)).take 4 = be32 (crc32 (t ++ d)) := by
    rw [← List.drop_drop, hheader, List.drop_left, List.take_left' (be32_length _)]
  have hrest : (pngChunk t d ++ rest).drop (12 + d.length) = rest := List.drop_left' hlen
  simp only [readChunk, hlength, htype, hheader, List.take_left, hcrc, hrest, and_self, if_true]

/-- R207 (a): the reader finds the three chunks one behind the other, the dimensions in the first and the
zlib stream of the filtered scanlines in the second. -/
theorem readPng_pngEncode (hp : p.length = 3 * w.toNat * h.toNat)
    (hidat : (idatData w h p).length ≤ 2 ^ 32 - 1) :
    readPng (pngEncode w h p) = some (w.toNat, h.toNat, p) := by
  have hsignature : (pngEncode w h p).take 8 = pngSignature := rfl
  have hchunks : (pngEncode w h p).drop 8 = pngChunk typeIHDR (ihdrData w h) ++
      (pngChunk typeIDAT (idatData w h p) ++ (pngChunk typeIEND [] ++ [])) := by
    rw [List.append_nil, ← List.append_assoc]
    rfl
  have hihdr := readChunk_pngChunk_append (t := typeIHDR) rfl
    (show (ihdrData w h).length ≤ 2 ^ 32 - 1 by rw [ihdrData_length]; decide)
  have hdata := readChunk_pngChunk_append (t := typeIDAT) rfl hidat
  have hiend := readChunk_pngChunk_append (t := typeIEND) (d := []) rfl (Nat.zero_le _)
  have hwidth : beNat ((ihdrData w h).take 4) = w.toNat := beNat_be32 w
  have hheight : beNat (((ihdrData w h).drop 4).take 4) = h.toNat := beNat_be32 h
  have htail : (ihdrData w h).drop 8 = ihdrTail := rfl
  have hzlib : readZlib (idatData w h p) = some (scanlines w.toNat h.toNat p) :=
    zlibOutputReadsBack _
  have hrows : readRows (3 * w.toNat) h.toNat (scanlines w.toNat h.toNat p) = some p :=
    readRows_filterRows hp
  simp only [readPng, hsignature, hchunks, hihdr, hdata, hiend, hwidth, hheight, htail, hzlib, hrows]
  simp [pngSignature, typeIHDR, typeIDAT, typeIEND, ihdrTail]

/-- Settles O46: a completion has passed the size check and the chunk check, so the pixels fill the rows and
the IDAT length is recovered from its four bytes. -/
theorem pngOutputReadsBack : Obligations.PngOutputReadsBack := by
  intro s t pixels hs hin h ht
  obtain ⟨hsize, hshort, data, hin', hout⟩ := exec_pngEncode_completed hs h ht
  obtain rfl : data = pixels := Option.some.inj (hin'.symm.trans hin)
  have hpixels := (State.input_length hin).trans hsize
  exact ⟨_, hout, readPng_pngEncode hpixels ((idatData_length hpixels).trans_le hshort)⟩

end Sys2Proof.Machine
end

section
/-!
PROOF. The faults of the commands (`60_exceptions.md` R221 to R230). The checks of a command are a function of
ILEN, ARG0, ARG1 and OBUF_CAP that answers the first to fail, so that at most one fault is raised (R229). A
running block either takes that fault and nothing else, or, when there is none, completes with CODE 0.
-/

namespace Sys2Proof.Machine

variable {s t : State} {i : Instr} {f : FaultCode} {n : Nat}

/-- R221: the code recorded tells which fault it was. -/
theorem FaultCode.code_injective : Function.Injective FaultCode.code := by
  intro f g
  cases f <;> cases g <;> decide

/-- R228: the fault of the last check, for an output of `n` bytes. -/
def overflowFault (s : State) (n : Nat) : Option FaultCode :=
  if s.cfg.obufCap < n then some .outputOverflow else none

/-- R229: the first check of the command to fail, in the fixed order. The checksum commands have none. -/
def firstFault (i : Instr) (s : State) : Option FaultCode :=
  match i with
  | .dflBlock _ =>
    if 65535 < s.ilen then some .blockTooLarge else overflowFault s (storedLength s.ilen)
  | .dflEncode => overflowFault s (deflateLength s.ilen)
  | .zlibWrap => overflowFault s (zlibLength s.ilen)
  | .pngChunk =>
    if 2 ^ 32 - 1 < s.ilen then some .chunkTooLong else overflowFault s (chunkLength s.ilen)
  | .pngEncode =>
    if s.ilen ≠ 3 * s.arg0.toNat * s.arg1.toNat then some .inputSizeMismatch
    else if 2 ^ 32 - 1 < idatLength s.arg0.toNat s.arg1.toNat then some .chunkTooLong
    else overflowFault s (pngLength s.arg0.toNat s.arg1.toNat)
  | .crcInit | .crcByte _ | .crcUpd | .crcRead | .crc32
  | .adlInit | .adlByte _ | .adlUpd | .adlRead | .adler32 => none

theorem overflowFault_of_overflow (h : s.cfg.obufCap < n) :
    overflowFault s n = some .outputOverflow := if_pos h

theorem overflowFault_of_fits (h : n ≤ s.cfg.obufCap) : overflowFault s n = none :=
  if_neg (Nat.not_lt.mpr h)

theorem overflowFault_eq_some :
    overflowFault s n = some f ↔ f = .outputOverflow ∧ s.cfg.obufCap < n := by
  simp [overflowFault, and_comm, eq_comm]

theorem firstFault_of_checksum (hi : checksumCommand i = true) : firstFault i s = none := by
  cases i with
  | dflBlock | dflEncode | zlibWrap | pngChunk | pngEncode => cases hi
  | _ => rfl

/-- R229, R230: how a command ends on a running block, DFL_BLOCK to PNG_ENCODE check by check. -/
theorem exec_of_running (hs : s.code = 0#4) (h : exec i s = .next t) :
    (∃ f, firstFault i s = some f ∧ t = s.takeFault f) ∨
    (firstFault i s = none ∧ t.code = 0#4) := by
  by_cases hi : checksumCommand i = true
  · obtain ⟨c, v, r, rfl, -, -⟩ := execChecksum_next hi h
    exact .inr ⟨firstFault_of_checksum hi, hs⟩
  cases i with
  | dflBlock f =>
    rcases execDflBlock_next h with ⟨hhalted, -⟩ | ⟨-, hlarge, rfl⟩ | ⟨-, hsmall, hover, rfl⟩ |
      ⟨-, hsmall, hfits, data, -, rfl⟩
    · exact absurd hs hhalted
    · exact .inl ⟨_, if_pos hlarge, rfl⟩
    · exact .inl ⟨_, (if_neg hsmall.not_gt).trans (overflowFault_of_overflow hover), rfl⟩
    · exact .inr ⟨(if_neg hsmall.not_gt).trans (overflowFault_of_fits hfits), hs⟩
  | dflEncode =>
    rcases execDflEncode_next h with ⟨hhalted, -⟩ | ⟨-, hover, rfl⟩ | ⟨-, hfits, data, -, rfl⟩
    · exact absurd hs hhalted
    · exact .inl ⟨_, overflowFault_of_overflow hover, rfl⟩
    · exact .inr ⟨overflowFault_of_fits hfits, hs⟩
  | zlibWrap =>
    rcases execZlibWrap_next h with ⟨hhalted, -⟩ | ⟨-, hover, rfl⟩ | ⟨-, hfits, data, -, rfl⟩
    · exact absurd hs hhalted
    · exact .inl ⟨_, overflowFault_of_overflow hover, rfl⟩
    · exact .inr ⟨overflowFault_of_fits hfits, hs⟩
  | pngChunk =>
    rcases execPngChunk_next h with ⟨hhalted, -⟩ | ⟨-, hlong, rfl⟩ | ⟨-, hshort, hover, rfl⟩ |
      ⟨-, hshort, hfits, data, -, rfl⟩
    · exact absurd hs hhalted
    · exact .inl ⟨_, if_pos hlong, rfl⟩
    · exact .inl ⟨_, (if_neg hshort.not_gt).trans (overflowFault_of_overflow hover), rfl⟩
    · exact .inr ⟨(if_neg hshort.not_gt).trans (overflowFault_of_fits hfits), hs⟩
  | pngEncode =>
    rcases execPngEncode_next h with ⟨hhalted, -⟩ | ⟨-, hsize, rfl⟩ | ⟨-, hsize, hlong, rfl⟩ |
      ⟨-, hsize, hshort, hover, rfl⟩ | ⟨-, hsize, hshort, hfits, data, -, rfl⟩
    · exact absurd hs hhalted
    · exact .inl ⟨_, if_pos hsize, rfl⟩
    · exact .inl ⟨_, (if_neg (not_not.mpr hsize)).trans (if_pos hlong), rfl⟩
    · exact .inl ⟨_, (if_neg (not_not.mpr hsize)).trans
        ((if_neg hshort.not_gt).trans (overflowFault_of_overflow hover)), rfl⟩
    · exact .inr ⟨(if_neg (not_not.mpr hsize)).trans
        ((if_neg hshort.not_gt).trans (overflowFault_of_fits hfits)),
        by rw [State.commit_code, State.setCrc_code, State.setSums_code, hs]⟩
  | _ => exact absurd rfl hi

/-- R221, R229: the code a command leaves on a running block is that of the first check to fail. -/
theorem exec_code_eq_iff (hs : s.code = 0#4) (h : exec i s = .next t) :
    t.code = f.code ↔ firstFault i s = some f := by
  rcases exec_of_running hs h with ⟨g, hg, rfl⟩ | ⟨hnone, ht⟩
  · rw [State.takeFault_code, hg, Option.some.injEq, FaultCode.code_injective.eq_iff]
  · simp [hnone, ht, (FaultCode.code_ne_zero f).symm]

/-- R222. -/
theorem firstFault_eq_inputSizeMismatch :
    firstFault i s = some .inputSizeMismatch ↔
      i = .pngEncode ∧ s.ilen ≠ 3 * s.arg0.toNat * s.arg1.toNat := by
  cases i <;> simp [firstFault, ite_eq_iff, overflowFault_eq_some]

/-- R223. -/
theorem firstFault_eq_blockTooLarge :
    firstFault i s = some .blockTooLarge ↔ (∃ f, i = .dflBlock f) ∧ 65535 < s.ilen := by
  cases i <;> simp [firstFault, ite_eq_iff, overflowFault_eq_some]

/-- R225: IllegalCommand is no command's fault; it is raised at decode. -/
theorem firstFault_ne_illegalCommand : firstFault i s ≠ some .illegalCommand := by
  cases i <;> simp [firstFault, ite_eq_iff, overflowFault_eq_some]

/-- R227. -/
theorem firstFault_eq_chunkTooLong :
    firstFault i s = some .chunkTooLong ↔
      (i = .pngChunk ∧ 2 ^ 32 - 1 < s.ilen) ∨
      (i = .pngEncode ∧ s.ilen = 3 * s.arg0.toNat * s.arg1.toNat ∧
        2 ^ 32 - 1 < idatLength s.arg0.toNat s.arg1.toNat) := by
  cases i <;> simp [firstFault, ite_eq_iff, overflowFault_eq_some]

/-- R228, R229. -/
theorem firstFault_eq_outputOverflow :
    firstFault i s = some .outputOverflow ↔
      ((∃ f, i = .dflBlock f) ∧ s.ilen ≤ 65535 ∧ s.cfg.obufCap < storedLength s.ilen) ∨
      (i = .dflEncode ∧ s.cfg.obufCap < deflateLength s.ilen) ∨
      (i = .zlibWrap ∧ s.cfg.obufCap < zlibLength s.ilen) ∨
      (i = .pngChunk ∧ s.ilen ≤ 2 ^ 32 - 1 ∧ s.cfg.obufCap < chunkLength s.ilen) ∨
      (i = .pngEncode ∧ s.ilen = 3 * s.arg0.toNat * s.arg1.toNat ∧
        idatLength s.arg0.toNat s.arg1.toNat ≤ 2 ^ 32 - 1 ∧
        s.cfg.obufCap < pngLength s.arg0.toNat s.arg1.toNat) := by
  cases i <;> simp [firstFault, ite_eq_iff, overflowFault_eq_some]

/-- Settles O48: the first check to fail is the size check of PNG_ENCODE, or the segment check of DFL_BLOCK. -/
theorem documentFaultsExactlyWhen : Obligations.DocumentFaultsExactlyWhen := fun _ _ _ hs h =>
  ⟨(exec_code_eq_iff (f := .inputSizeMismatch) hs h).trans firstFault_eq_inputSizeMismatch,
    (exec_code_eq_iff (f := .blockTooLarge) hs h).trans firstFault_eq_blockTooLarge⟩

/-- Settles O49: the first check to fail is one of the two chunk checks, or one of the five against
OBUF_CAP. -/
theorem capacityFaultsExactlyWhen : Obligations.CapacityFaultsExactlyWhen := fun _ _ _ hs h =>
  ⟨(exec_code_eq_iff (f := .chunkTooLong) hs h).trans firstFault_eq_chunkTooLong,
    (exec_code_eq_iff (f := .outputOverflow) hs h).trans firstFault_eq_outputOverflow⟩

/-- R230: a fault taken is STATUS written with the code, whichever fault it was. -/
theorem State.takeFault_eq (s : State) (f : FaultCode) :
    s.takeFault f = { s with status := (s.takeFault f).code.setWidth 32 } := by
  rw [State.takeFault_code]
  rfl

/-- R221, R230: what a code left by a command on a running block says. -/
theorem exec_faulted (hs : s.code = 0#4) (h : exec i s = .next t) (ht : t.code ≠ 0#4) :
    ∃ f, f ≠ .illegalCommand ∧ t = s.takeFault f := by
  rcases exec_of_running hs h with ⟨f, hf, rfl⟩ | ⟨-, hzero⟩
  · exact ⟨f, fun hillegal => firstFault_ne_illegalCommand (hillegal ▸ hf), rfl⟩
  · exact absurd hzero ht

/-- R221: the codes of the faults a command raises. -/
theorem FaultCode.code_mem_of_ne_illegalCommand (hf : f ≠ .illegalCommand) :
    f.code ∈ ([1, 2, 5, 6] : List (BitVec 4)) := by
  cases f with
  | illegalCommand => exact absurd rfl hf
  | _ => decide

/-- R221: the codes of all faults. -/
theorem FaultCode.code_mem (f : FaultCode) : f.code ∈ ([1, 2, 4, 5, 6] : List (BitVec 4)) := by
  cases f <;> decide

/-- R230: a word that leaves a code on a running block has taken a fault, at decode or in its command. -/
theorem issue_faulted {w : Half} (hs : s.code = 0#4) (h : issue w s = .next t) (ht : t.code ≠ 0#4) :
    ∃ f, t = s.takeFault f := by
  rcases issue_next h with ⟨i, -, h⟩ | ⟨e, -, h⟩
  · obtain ⟨f, -, hf⟩ := exec_faulted hs h ht
    exact ⟨f, hf⟩
  · rcases execIllegal_next h with ⟨hhalted, -⟩ | ⟨-, hf⟩
    · exact absurd hs hhalted
    · exact ⟨_, hf⟩

/-- Settles O47: whatever leaves a code has taken a fault, which is one write of STATUS. -/
theorem faultsArePrecise : Obligations.FaultsArePrecise := by
  constructor
  · intro i s t hs h ht
    obtain ⟨f, hf, rfl⟩ := exec_faulted hs h ht
    exact ⟨s.takeFault_eq f, s.takeFault_code f ▸ FaultCode.code_mem_of_ne_illegalCommand hf⟩
  · intro w s t hs h ht
    obtain ⟨f, rfl⟩ := issue_faulted hs h ht
    exact ⟨s.takeFault_eq f, s.takeFault_code f ▸ f.code_mem⟩

end Sys2Proof.Machine
end

section
/-!
PROOF. The halted block (`60_exceptions.md` R231): put together from the lemmas on the halt and those on the
host's moves, which do not ask whether the block runs.
-/

namespace Sys2Proof.Machine

/-- Settles O50: the halt keeps the results, the other host moves do what they do on every block, and the reset
puts CODE back to 0. -/
theorem haltedBlock : Obligations.HaltedBlock := by
  intro s hs
  obtain ⟨hstatus, harg0, harg1, hres, hilen, holen, -⟩ := hostRegisterReads s 0
  refine ⟨issue_of_halted hs, exec_of_halted hs, fun bs => perform_load_of_fits, ?_, ?_,
    fun out => perform_readOut, ?_, s.resetBlock, rfl, s.resetBlock_code⟩
  · intro v hv
    obtain ⟨-, hwrite0, -⟩ := hostRegisterWrites s 2 v
    obtain ⟨-, -, hwrite1, -⟩ := hostRegisterWrites s 3 v
    exact ⟨hwrite0 rfl hv, hwrite1 rfl hv⟩
  · simp only [List.forall_mem_cons]
    exact ⟨hstatus, harg0, harg1, hres, hilen, holen, nofun⟩
  · intro m t hm h
    obtain ⟨⟨-, -, -, -, hkept, -⟩, -⟩ := perform_of_halted hs hm h
    exact hkept

end Sys2Proof.Machine
end

section
/-!
PROOF. The illegal words (`60_exceptions.md` R225): the three ways a word can be illegal, said of its two fields,
are together the words that decode to no command.
-/

namespace Sys2Proof

/-- R83: the operation codes of the format N commands. -/
def formatNCodes : List Byte :=
  [0x10, 0x12, 0x13, 0x14, 0x20, 0x22, 0x23, 0x24, 0x31, 0x40, 0x50, 0x60]

/-- R225: an undefined operation code, an immediate where format N has none, or one of bits 7:1 set on
DFL_BLOCK. -/
def IllegalFields (op imm : Byte) : Prop :=
  op ∉ formatNCodes ++ [0x11, 0x21, 0x30] ∨ (op ∈ formatNCodes ∧ imm ≠ 0#8) ∨
    (op = 0x30#8 ∧ imm &&& 0xFE#8 ≠ 0#8)

/-- R83: every operation code listed is that of a command. -/
theorem exists_opcode_eq {op : Byte} (h : op ∈ formatNCodes ++ [0x11, 0x21, 0x30]) :
    ∃ i, opcode i = op := by
  have hcodes : formatNCodes ++ [0x11, 0x21, 0x30] =
      [.crcInit, .crcUpd, .crcRead, .crc32, .adlInit, .adlUpd, .adlRead, .adler32, .dflEncode,
        .zlibWrap, .pngChunk, .pngEncode, .crcByte 0, .adlByte 0, .dflBlock false].map opcode := rfl
  rw [hcodes] at h
  obtain ⟨i, -, hi⟩ := List.mem_map.mp h
  exact ⟨i, hi⟩

/-- R81, R225: under a command's operation code an immediate is illegal unless its format admits it. -/
theorem illegalFields_opcode (i : Instr) (imm : Byte) :
    IllegalFields (opcode i) imm ↔ ¬ i.format.admits imm = true := by
  cases i <;> simp [IllegalFields, formatNCodes, opcode, Instr.format, Format.admits]

/-- R81: a command's own immediate is one its format admits. -/
theorem Instr.format_admits_imm8 (i : Instr) : i.format.admits i.imm8 = true := by
  obtain ⟨hwf, -⟩ := row_selects_encode i
  exact hwf

/-- R84, R225: a word decodes to a command unless its fields are illegal. -/
theorem exists_decode_iff {w : Half} :
    (∃ i, decode w = .ok i) ↔ ¬ IllegalFields (opField w) (immField w) := by
  constructor
  · rintro ⟨i, hd⟩
    obtain ⟨hop, himm⟩ := fields_of_decode hd
    rw [hop, himm, illegalFields_opcode, not_not]
    exact i.format_admits_imm8
  · intro hlegal
    have hdefined : opField w ∈ formatNCodes ++ [0x11, 0x21, 0x30] :=
      not_not.mp fun hundefined => hlegal (.inl hundefined)
    obtain ⟨i, hi⟩ := exists_opcode_eq hdefined
    rw [← hi, illegalFields_opcode, not_not] at hlegal
    obtain ⟨j, hj, himm⟩ := exists_command_of_admits i hlegal
    exact ⟨j, decode_eq_ok_iff.mpr (encode_eq_iff.mpr ⟨(hj.trans hi).symm, himm.symm⟩)⟩

/-- R84, R225: a word with illegal fields is rejected at decode. -/
theorem exists_error_of_illegalFields {w : Half} (h : IllegalFields (opField w) (immField w)) :
    ∃ e, decode w = .error e := by
  cases hd : decode w with
  | ok i => exact absurd h (exists_decode_iff.mp ⟨i, hd⟩)
  | error e => exact ⟨e, rfl⟩

end Sys2Proof

namespace Sys2Proof.Machine

/-- Settles O5: an illegal word faults at decode; a legal one runs a command, and no command raises
IllegalCommand. -/
theorem illegalWordsTakeIllegalCommand : Obligations.IllegalWordsTakeIllegalCommand := by
  intro w s hs
  constructor
  · intro hillegal
    obtain ⟨e, he⟩ := exists_error_of_illegalFields hillegal
    rw [issue_of_error he, execIllegal, unlessHalted_of_running hs]
    rfl
  · intro hlegal t h
    obtain ⟨i, hi⟩ := exists_decode_iff.mpr hlegal
    rw [issue_of_ok hi] at h
    exact fun ht => firstFault_ne_illegalCommand ((exec_code_eq_iff hs h).mp ht)

end Sys2Proof.Machine
end

section
/-!
PROOF. The reset of any block (`70_reset_and_hazards.md` R260): the move replaces the block whole, so that nothing
of the state before is asked, the halt included.
-/

namespace Sys2Proof.Machine

theorem perform_reset (s : State) : perform .reset s = .next s.resetBlock := rfl

/-- R37: ILEN = 0, so that no input byte is valid. -/
@[simp] theorem State.resetBlock_inputByte (s : State) (i : Nat) : s.resetBlock.inputByte i = none :=
  if_neg i.not_lt_zero

/-- R37: OLEN = 0, so that no output byte is valid. -/
@[simp] theorem State.resetBlock_outputByte (s : State) (i : Nat) : s.resetBlock.outputByte i = none :=
  if_neg i.not_lt_zero

/-- Settles O9: the move answers `State.resetBlock`, item by item. -/
theorem hostResetFromAnyState : Obligations.HostResetFromAnyState := fun s =>
  ⟨s.resetBlock, perform_reset s,
    s.resetBlock_crc, s.resetBlock_s1, s.resetBlock_s2, s.resetBlock_arg0, s.resetBlock_arg1,
    s.resetBlock_res, s.resetBlock_status, s.resetBlock_ilen, s.resetBlock_olen,
    s.resetBlock_inputByte, s.resetBlock_outputByte, s.resetBlock_code⟩

end Sys2Proof.Machine
end
